-- ==== Sys2Proof/Word.lean ====
section
/-! DEFINITION. The word types of the Streebog compression engine (spec/00_scope.md R5, R7) and the values that cross its
interface. What is done with them stands under Machine/. -/

namespace Sys2Proof

/-- One byte of a block. -/
abbrev Byte := BitVec 8

/-- A lane: a 64-bit unsigned value, bit 0 the least significant (R7). -/
abbrev Lane := BitVec 64

/-- A 512-bit state block (R5, R7). Its three views (eight lanes, 64 bytes, one 512-bit integer) "are one value": the bit
vector itself; Machine/Bits.lean reads lanes and bytes out of it, and the integer is its toNat. -/
abbrev Block := BitVec 512

/-- A 16-bit command word CMD (R60, R61). -/
abbrev CmdWord := BitVec 16

/-- The two-valued mode tag (R27). There is no third value. -/
inductive Mode where
  | h256
  | h512
  deriving DecidableEq, Repr, Inhabited

/-- One command transaction from host to engine (R28, R60): the command word and the 512-bit data word. -/
structure Transaction where
  cmd : CmdWord
  din : Block
  deriving DecidableEq, Repr

end Sys2Proof
end

