-- ==== Sys2Proof/Machine/Bits.lean ====
section
/-! DEFINITION. How bits, bytes, lanes, blocks and 512-bit integers correspond (spec/20_memory.md R40, R41), the fields of
a command word (spec/30_encoding.md R61), and reading a read-only space (spec/00_scope.md R9, spec/20_memory.md R47). -/

namespace Sys2Proof.Machine

/-- Byte p of a lane: w[8p+7:8p] (R7, R44), p in 0..7; 0 above (DESIGN CHOICE, safe, log entry 10). -/
def laneByte (w : Lane) (p : Nat) : Byte := w.extractLsb' (8 * p) 8

/-- Lane k of a block: bits 64k+63:64k (R40, R62), k in 0..7; 0 above (DESIGN CHOICE, safe, log entry 10). -/
def lane (x : Block) (k : Nat) : Lane := x.extractLsb' (64 * k) 64

/-- Byte n of a block, x.b[n]: bits 8n+7:8n (R40, R62), n in 0..63; 0 above (DESIGN CHOICE, safe, log entry 10). -/
def blockByte (x : Block) (n : Nat) : Byte := x.extractLsb' (8 * n) 8

/-- The block whose first `count` pieces of `w` bits are `piece 0`, `piece 1`, … from bit 0 upward, zero above. -/
def joinPieces {w : Nat} (piece : Nat → BitVec w) : Nat → Block
  | 0 => 0
  | count + 1 => joinPieces piece count ||| ((piece count).setWidth 512 <<< (w * count))

/-- The block with the eight given lanes (R7, R40). -/
def ofLanes (f : Nat → Lane) : Block := joinPieces f 8

/-- The block with the 64 given bytes (R7, R40). -/
def ofBytes (f : Nat → Byte) : Block := joinPieces f 64

/-- The exclusive or of f 0, …, f (n-1). -/
def xorOver (f : Nat → Lane) : Nat → Lane
  | 0 => 0
  | n + 1 => xorOver f n ^^^ f n

/-- A read-only space holding the listed words one after another, word 0 at byte offset 0, each little-endian (R47 to
R50): the whole space as one number, byte k of the space being its bits 8k+7:8k. -/
def spaceOf {w : Nat} (words : List (BitVec w)) : Nat :=
  words.foldr (fun x above => (above <<< w) + x.toNat) 0

/-- MemRead(space + off, n): n bytes at byte offset off of a read-only space, little-endian, as an unsigned value (R9).
Bytes past the end of the space, which no rule reads, are 0: DESIGN CHOICE, safe, log entry 10. -/
def memRead (space off n : Nat) : Nat := (space >>> (8 * off)) % 2 ^ (8 * n)

/-- OP = CMD[15:12] (R61). -/
def opField (w : CmdWord) : BitVec 4 := w.extractLsb' 12 4

/-- Z = CMD[11:8] (R61). -/
def zField (w : CmdWord) : BitVec 4 := w.extractLsb' 8 4

/-- ARG = CMD[7:0] (R61). -/
def argField (w : CmdWord) : BitVec 8 := w.extractLsb' 0 8

end Sys2Proof.Machine
end

