-- ==== Sys2Proof/Machine/Constants.lean ====
section
/-! DEFINITION. The constant tables π, A, C_1 to C_12 and the initialization vectors (component C1,
spec/40_constants.md R80 to R85), held in read-only spaces (spec/20_memory.md R47 to R50). They are configuration, not
state: no command writes them and hardware reset does not alter them (R36, R85, R161). -/

namespace Sys2Proof.Machine

/-- π[0x00] to π[0x7f] (R80), sixteen entries a line in index order: the row is the high hexadecimal digit of the index. -/
def piLow : List Byte :=
  [0xfc#8, 0xee#8, 0xdd#8, 0x11#8, 0xcf#8, 0x6e#8, 0x31#8, 0x16#8, 0xfb#8, 0xc4#8, 0xfa#8, 0xda#8, 0x23#8, 0xc5#8, 0x04#8, 0x4d#8] ++
  [0xe9#8, 0x77#8, 0xf0#8, 0xdb#8, 0x93#8, 0x2e#8, 0x99#8, 0xba#8, 0x17#8, 0x36#8, 0xf1#8, 0xbb#8, 0x14#8, 0xcd#8, 0x5f#8, 0xc1#8] ++
  [0xf9#8, 0x18#8, 0x65#8, 0x5a#8, 0xe2#8, 0x5c#8, 0xef#8, 0x21#8, 0x81#8, 0x1c#8, 0x3c#8, 0x42#8, 0x8b#8, 0x01#8, 0x8e#8, 0x4f#8] ++
  [0x05#8, 0x84#8, 0x02#8, 0xae#8, 0xe3#8, 0x6a#8, 0x8f#8, 0xa0#8, 0x06#8, 0x0b#8, 0xed#8, 0x98#8, 0x7f#8, 0xd4#8, 0xd3#8, 0x1f#8] ++
  [0xeb#8, 0x34#8, 0x2c#8, 0x51#8, 0xea#8, 0xc8#8, 0x48#8, 0xab#8, 0xf2#8, 0x2a#8, 0x68#8, 0xa2#8, 0xfd#8, 0x3a#8, 0xce#8, 0xcc#8] ++
  [0xb5#8, 0x70#8, 0x0e#8, 0x56#8, 0x08#8, 0x0c#8, 0x76#8, 0x12#8, 0xbf#8, 0x72#8, 0x13#8, 0x47#8, 0x9c#8, 0xb7#8, 0x5d#8, 0x87#8] ++
  [0x15#8, 0xa1#8, 0x96#8, 0x29#8, 0x10#8, 0x7b#8, 0x9a#8, 0xc7#8, 0xf3#8, 0x91#8, 0x78#8, 0x6f#8, 0x9d#8, 0x9e#8, 0xb2#8, 0xb1#8] ++
  [0x32#8, 0x75#8, 0x19#8, 0x3d#8, 0xff#8, 0x35#8, 0x8a#8, 0x7e#8, 0x6d#8, 0x54#8, 0xc6#8, 0x80#8, 0xc3#8, 0xbd#8, 0x0d#8, 0x57#8]

/-- π[0x80] to π[0xff] (R80). -/
def piHigh : List Byte :=
  [0xdf#8, 0xf5#8, 0x24#8, 0xa9#8, 0x3e#8, 0xa8#8, 0x43#8, 0xc9#8, 0xd7#8, 0x79#8, 0xd6#8, 0xf6#8, 0x7c#8, 0x22#8, 0xb9#8, 0x03#8] ++
  [0xe0#8, 0x0f#8, 0xec#8, 0xde#8, 0x7a#8, 0x94#8, 0xb0#8, 0xbc#8, 0xdc#8, 0xe8#8, 0x28#8, 0x50#8, 0x4e#8, 0x33#8, 0x0a#8, 0x4a#8] ++
  [0xa7#8, 0x97#8, 0x60#8, 0x73#8, 0x1e#8, 0x00#8, 0x62#8, 0x44#8, 0x1a#8, 0xb8#8, 0x38#8, 0x82#8, 0x64#8, 0x9f#8, 0x26#8, 0x41#8] ++
  [0xad#8, 0x45#8, 0x46#8, 0x92#8, 0x27#8, 0x5e#8, 0x55#8, 0x2f#8, 0x8c#8, 0xa3#8, 0xa5#8, 0x7d#8, 0x69#8, 0xd5#8, 0x95#8, 0x3b#8] ++
  [0x07#8, 0x58#8, 0xb3#8, 0x40#8, 0x86#8, 0xac#8, 0x1d#8, 0xf7#8, 0x30#8, 0x37#8, 0x6b#8, 0xe4#8, 0x88#8, 0xd9#8, 0xe7#8, 0x89#8] ++
  [0xe1#8, 0x1b#8, 0x83#8, 0x49#8, 0x4c#8, 0x3f#8, 0xf8#8, 0xfe#8, 0x8d#8, 0x53#8, 0xaa#8, 0x90#8, 0xca#8, 0xd8#8, 0x85#8, 0x61#8] ++
  [0x20#8, 0x71#8, 0x67#8, 0xa4#8, 0x2d#8, 0x2b#8, 0x09#8, 0x5b#8, 0xcb#8, 0x9b#8, 0x25#8, 0xd0#8, 0xbe#8, 0xe5#8, 0x6c#8, 0x52#8] ++
  [0x59#8, 0xa6#8, 0x74#8, 0xd2#8, 0xe6#8, 0xf4#8, 0xb4#8, 0xc0#8, 0xd1#8, 0x66#8, 0xaf#8, 0xc2#8, 0x39#8, 0x4b#8, 0x63#8, 0xb6#8]

/-- Space PI: 256 bytes, entry b at offset b (R50, R80). -/
def spacePI : Nat := spaceOf (piLow ++ piHigh)

/-- The S-box: π[b] = MemRead(PI + b, 1) (R9, R80). -/
def sbox (b : Byte) : Byte := BitVec.ofNat 8 (memRead spacePI b.toNat 1)

/-- The rows A[0] to A[63] of the linear layer's matrix, stored row-major (R81). -/
def matrixA : List Lane :=
  [0x8e20faa72ba0b470#64, 0x47107ddd9b505a38#64, 0xad08b0e0c3282d1c#64, 0xd8045870ef14980e#64] ++
  [0x6c022c38f90a4c07#64, 0x3601161cf205268d#64, 0x1b8e0b0e798c13c8#64, 0x83478b07b2468764#64] ++
  [0xa011d380818e8f40#64, 0x5086e740ce47c920#64, 0x2843fd2067adea10#64, 0x14aff010bdd87508#64] ++
  [0x0ad97808d06cb404#64, 0x05e23c0468365a02#64, 0x8c711e02341b2d01#64, 0x46b60f011a83988e#64] ++
  [0x90dab52a387ae76f#64, 0x486dd4151c3dfdb9#64, 0x24b86a840e90f0d2#64, 0x125c354207487869#64] ++
  [0x092e94218d243cba#64, 0x8a174a9ec8121e5d#64, 0x4585254f64090fa0#64, 0xaccc9ca9328a8950#64] ++
  [0x9d4df05d5f661451#64, 0xc0a878a0a1330aa6#64, 0x60543c50de970553#64, 0x302a1e286fc58ca7#64] ++
  [0x18150f14b9ec46dd#64, 0x0c84890ad27623e0#64, 0x0642ca05693b9f70#64, 0x0321658cba93c138#64] ++
  [0x86275df09ce8aaa8#64, 0x439da0784e745554#64, 0xafc0503c273aa42a#64, 0xd960281e9d1d5215#64] ++
  [0xe230140fc0802984#64, 0x71180a8960409a42#64, 0xb60c05ca30204d21#64, 0x5b068c651810a89e#64] ++
  [0x456c34887a3805b9#64, 0xac361a443d1c8cd2#64, 0x561b0d22900e4669#64, 0x2b838811480723ba#64] ++
  [0x9bcf4486248d9f5d#64, 0xc3e9224312c8c1a0#64, 0xeffa11af0964ee50#64, 0xf97d86d98a327728#64] ++
  [0xe4fa2054a80b329c#64, 0x727d102a548b194e#64, 0x39b008152acb8227#64, 0x9258048415eb419d#64] ++
  [0x492c024284fbaec0#64, 0xaa16012142f35760#64, 0x550b8e9e21f7a530#64, 0xa48b474f9ef5dc18#64] ++
  [0x70a6a56e2440598e#64, 0x3853dc371220a247#64, 0x1ca76e95091051ad#64, 0x0edd37c48a08a6d8#64] ++
  [0x07e095624504536c#64, 0x8d70c431ac02a736#64, 0xc83862965601dd1b#64, 0x641c314b2b8ee083#64]

/-- Space A: 64 words of 64 bits (R50). -/
def spaceA : Nat := spaceOf matrixA

/-- A[j] = MemRead(A + 8j, 8) (R9, R81), j in 0..63; 0 above (DESIGN CHOICE, safe, log entry 10). -/
def rowA (j : Nat) : Lane := BitVec.ofNat 64 (memRead spaceA (8 * j) 8)

/-- The twelve round constants, flattened into 96 lanes: lane k of C_i is word 8(i-1)+k (R49, R82). -/
def roundWords : List Lane :=
  [0xdd806559f2a64507#64, 0x05767436cc744d23#64, 0xa2422a08a460d315#64, 0x4b7ce09192676901#64,
   0x714eb88d7585c4fc#64, 0x2f6a76432e45d016#64, 0xebcb2f81c0657c1f#64, 0xb1085bda1ecadae9#64] ++
  [0xe679047021b19bb7#64, 0x55dda21bd7cbcd56#64, 0x5cb561c2db0aa7ca#64, 0x9ab5176b12d69958#64,
   0x61d55e0f16b50131#64, 0xf3feea720a232b98#64, 0x4fe39d460f70b5d7#64, 0x6fa3b58aa99d2f1a#64] ++
  [0x991e96f50aba0ab2#64, 0xc2b6f443867adb31#64, 0xc1c93a376062db09#64, 0xd3e20fe490359eb1#64,
   0xf2ea7514b1297b7b#64, 0x06f15e5f529c1f8b#64, 0x0a39fc286a3d8435#64, 0xf574dcac2bce2fc7#64] ++
  [0x220cbebc84e3d12e#64, 0x3453eaa193e837f1#64, 0xd8b71333935203be#64, 0xa9d72c82ed03d675#64,
   0x9d721cad685e353f#64, 0x488e857e335c3c7d#64, 0xf948e1a05d71e4dd#64, 0xef1fdfb3e81566d2#64] ++
  [0x601758fd7c6cfe57#64, 0x7a56a27ea9ea63f5#64, 0xdfff00b723271a16#64, 0xbfcd1747253af5a3#64,
   0x359e35d7800fffbd#64, 0x7f151c1f1686104a#64, 0x9a3f410c6ca92363#64, 0x4bea6bacad474799#64] ++
  [0xfa68407a46647d6e#64, 0xbf71c57236904f35#64, 0x0af21f66c2bec6b6#64, 0xcffaa6b71c9ab7b4#64,
   0x187f9ab49af08ec6#64, 0x2d66c4f95142a46c#64, 0x6fa4c33b7a3039c0#64, 0xae4faeae1d3ad3d9#64] ++
  [0x8886564d3a14d493#64, 0x3517454ca23c4af3#64, 0x06476983284a0504#64, 0x0992abc52d822c37#64,
   0xd3473e33197a93c9#64, 0x399ec6c7e6bf87c9#64, 0x51ac86febf240954#64, 0xf4c70e16eeaac5ec#64] ++
  [0xa47f0dd4bf02e71e#64, 0x36acc2355951a8d9#64, 0x69d18d2bd1a5c42f#64, 0xf4892bcb929b0690#64,
   0x89b4443b4ddbc49a#64, 0x4eb7f8719c36de1e#64, 0x03e7aa020c6e4141#64, 0x9b1f5b424d93c9a7#64] ++
  [0x7261445183235adb#64, 0x0e38dc92cb1f2a60#64, 0x7b2b8a9aa6079c54#64, 0x800a440bdbb2ceb1#64,
   0x3cd955b7e00d0984#64, 0x3a7d3a1b25894224#64, 0x944c9ad8ec165fde#64, 0x378f5a541631229b#64] ++
  [0x74b4c7fb98459ced#64, 0x3698fad1153bb6c3#64, 0x7a1e6c303b7652f4#64, 0x9fe76702af69334b#64,
   0x1fffe18a1b336103#64, 0x8941e71cff8a78db#64, 0x382ae548b2e4f3f3#64, 0xabbedea680056f52#64] ++
  [0x6bcaa4cd81f32d1b#64, 0xdea2594ac06fd85d#64, 0xefbacd1d7d476e98#64, 0x8a1d71efea48b9ca#64,
   0x2001802114846679#64, 0xd8fa6bbbebab0761#64, 0x3002c6cd635afe94#64, 0x7bcd9ed0efc889fb#64] ++
  [0x48bc924af11bd720#64, 0xfaf417d5d9b21b99#64, 0xe71da4aa88e12852#64, 0x5d80ef9d1891cc86#64,
   0xf82012d430219f9b#64, 0xcda43c32bcdf1d77#64, 0xd21380b00449b17a#64, 0x378ee767f11631ba#64]

/-- Space C: 96 words of 64 bits (R49). -/
def spaceC : Nat := spaceOf roundWords

/-- C_i[k] = MemRead(C + 8(8(i-1)+k), 8), for i in 1..12 and k in 0..7 (R9, R49). Outside these
ranges, where no command reads, it is what the same words of the space give (DESIGN CHOICE, safe, log entry 10). -/
def roundLane (i k : Nat) : Lane := BitVec.ofNat 64 (memRead spaceC (8 * (8 * (i - 1) + k)) 8)

/-- The round constant C_i, read as eight lanes (R47, R82). -/
def roundConst (i : Nat) : Block := ofLanes (roundLane i)

/-- IV_512: 64 zero bytes (R83). -/
def iv512 : Block := 0

/-- IV_256: 64 bytes of 0x01 (R83). -/
def iv256 : Block := ofBytes fun _ => 0x01

/-- IV selection by mode (R105). -/
def iv : Mode → Block
  | .h512 => iv512
  | .h256 => iv256

end Sys2Proof.Machine
end

