-- ==== Sys2Proof/Machine/Lps.lean ====
section
/-! DEFINITION. The transformations S, P and L, the table T that fuses them (component C2, spec/41_lps_table.md R90 to
R97), and the primitives xor512 and LPSX (component C3, spec/42_primitives.md R100, R101). -/

namespace Sys2Proof.Machine

/-- S: byte-wise substitution by π, the same table at all 64 byte positions (R90). -/
def subS (x : Block) : Block := ofBytes fun n => sbox (blockByte x n)

/-- P: byte i of output lane j is byte j of input lane i (R91); output byte n is byte i = n mod 8 of lane j = n / 8. -/
def permP (x : Block) : Block := ofBytes fun n => blockByte x (8 * (n % 8) + n / 8)

/-- l on one lane: bit n of the lane selects row A[63 - n] (R92). -/
def linLane (w : Lane) : Lane := xorOver (fun n => if w.getLsbD n then rowA (63 - n) else 0) 64

/-- L: l applied to each of the eight lanes (R92). -/
def linL (x : Block) : Block := ofLanes fun k => linLane (lane x k)

/-- T[i][b], row i in 0..7 and byte value b (R93): bit k of π[b] selects row A[63 - k - 8i]. A conforming realisation of
the read-only table is any that returns this value (R95). The table has no row above 7, and no command reads one. DESIGN
CHOICE, safe, log entry 10: there the index 63 - k - 8i stops at 0, so the value is A[0] where π[b] has an odd number of
bits set, and 0 elsewhere. -/
def tableT (i : Nat) (b : Byte) : Lane :=
  xorOver (fun k => if (sbox b).getLsbD k then rowA (63 - k - 8 * i) else 0) 8

/-- xor512(l, r): lane-wise exclusive or (R100). -/
def xor512 (l r : Block) : Block := ofLanes fun k => lane l k ^^^ lane r k

/-- LPSX(lhs, rhs) (R101): with r_i = lhs_i ⊕ rhs_i, output lane j is the exclusive or over the input lanes i of
T[i][byte j of r_i]. -/
def lpsx (lhs rhs : Block) : Block :=
  ofLanes fun j => xorOver (fun i => tableT i (laneByte (lane lhs i ^^^ lane rhs i) j)) 8

end Sys2Proof.Machine
end

