-- ==== Sys2Proof/Machine/Compress.lean ====
section
/-! DEFINITION. The compression function g (component C4, spec/43_compression.md R110 to R116). -/

namespace Sys2Proof.Machine

/-- The two transient blocks of g (R30, R110): the key schedule K and the data path t. -/
structure Work where
  K : Block
  t : Block
  deriving DecidableEq, Repr

/-- One pass of step 3 of g (R110): t is computed from the K that stands before the K update of the same line. -/
def roundPass (w : Work) (i : Nat) : Work :=
  { K := lpsx w.K (roundConst (i + 1)), t := lpsx w.K w.t }

/-- g(m, N, h, is_zero) → h' (R110), with K and t transient. -/
def compress (m N h : Block) (isZero : Bool) : Block :=
  let K1 := lpsx h (if isZero then 0 else N)
  let start : Work := { K := lpsx K1 (roundConst 1), t := lpsx K1 m }
  let w := (List.range' 1 11).foldl roundPass start
  xor512 (xor512 (xor512 h w.t) w.K) m

/-- The round key K_{n+1} that follows from the first key K_1 (R113): K_{i+1} = LPSX(K_i, C_i).
The rule has n in 0..12; above, where nothing uses it, the recursion goes on (DESIGN CHOICE, safe, log entry 10). -/
def roundKey (K1 : Block) : Nat → Block
  | 0 => K1
  | n + 1 => lpsx (roundKey K1 n) (roundConst (n + 1))

/-- The message block after n rounds (R113): t_1 = LPSX(K_1, m) and t_{i+1} = LPSX(K_{i+1}, t_i).
The rule has n in 1..12; at 0 it is m, and above, where nothing uses it, the recursion goes on (DESIGN CHOICE, safe, log
entry 10). -/
def roundText (K1 m : Block) : Nat → Block
  | 0 => m
  | n + 1 => lpsx (roundKey K1 n) (roundText K1 m n)

/-- E(K_1, m) = t_12 ⊕ K_13, the twelve-round keyed permutation (R113). -/
def permE (K1 m : Block) : Block := xor512 (roundText K1 m 12) (roundKey K1 12)

end Sys2Proof.Machine
end

