-- ==== Sys2Proof/Config.lean ====
section
/-! DEFINITION. What the spec leaves open and the model fixes without saying a value: the contents of the four registers
after hardware reset. The numeric tables π, A, C_i and the IVs, which spec/40_constants.md R84 calls configuration, stand in
Machine/Constants.lean. -/

namespace Sys2Proof

/-- MODE after the n-th hardware reset: "no defined value" (spec/10_state.md R34). DESIGN CHOICE, unsafe, log entry 1: a
constant without a body, so that no proof can see which mode it is. -/
opaque Config.resetMode : Nat → Mode

/-- h after the n-th hardware reset: "A model must not pick zero" (R34). DESIGN CHOICE, unsafe, log entry 1. -/
opaque Config.resetH : Nat → Block

/-- N after the n-th hardware reset (R34). DESIGN CHOICE, unsafe, log entry 1. -/
opaque Config.resetN : Nat → Block

/-- Σ after the n-th hardware reset (R34). DESIGN CHOICE, unsafe, log entry 1. -/
opaque Config.resetSigma : Nat → Block

end Sys2Proof
end

