-- ==== Sys2Proof/Machine/Flags.lean ====
section
/-! DEFINITION. The engine has no status flags, condition codes or predicates (spec/10_state.md R26). The one flag-like
computation is the carry between the lanes of a 512-bit addition, "a transient of that function": it is written here, with
the addition that uses it (spec/42_primitives.md R102). -/

namespace Sys2Proof.Machine

/-- The 65-bit unsigned sum of two lanes and a carry (R102). -/
def laneSum (a b : Lane) (c : BitVec 1) : BitVec 65 := a.setWidth 65 + b.setWidth 65 + c.setWidth 65

/-- The carry into lane k, ascending from lane 0, which has none (R102). -/
def carryInto (a b : Block) : Nat → BitVec 1
  | 0 => 0
  | k + 1 => (laneSum (lane a k) (lane b k) (carryInto a b k)).extractLsb' 64 1

/-- add512_le(a, b): 512-bit addition as an eight-lane carry chain, the carry out of lane 7 dropped (R102). -/
def add512le (a b : Block) : Block :=
  ofLanes fun k => (laneSum (lane a k) (lane b k) (carryInto a b k)).extractLsb' 0 64

end Sys2Proof.Machine
end

