-- ==== Sys2Proof/Machine/Operands.lean ====
section
/-! DEFINITION. Every operand form (spec/30_encoding.md R64 to R66), the blocks the commands build from their operands
(spec/44_commands.md R124, spec/42_primitives.md R103), message blocks (spec/20_memory.md R42) and the digest selected from a
response (R127, R43). -/

namespace Sys2Proof.Machine

/-- The MODE bit: 0 selects H256, 1 selects H512 (R27, R64). -/
def modeOfBit (b : Bool) : Mode := if b then .h512 else .h256

/-- The MODE bit of a mode (R27, R64). -/
def modeBit : Mode → BitVec 1
  | .h256 => 0
  | .h512 => 1

/-- MODE operand of NEW: CMD[0] (R64). -/
def modeOperand (w : CmdWord) : Mode := modeOfBit (w.getLsbD 0)

/-- R operand of FINALIZE: CMD[5:0], an unsigned byte count (R65). -/
def tailLength (w : CmdWord) : BitVec 6 := w.extractLsb' 0 6

/-- blk(v): the block whose lane 0 is v and whose other lanes are 0 (R103). The
commands use v up to 512; a v that does not fit a lane is cut to it (DESIGN CHOICE, safe, log entry 10). -/
def blk (v : Nat) : Block := ofLanes fun k => if k = 0 then BitVec.ofNat 64 v else 0

/-- mkpad(DIN, r): the tail, then one byte 0x01, then zeros; the bytes of DIN from r upward are ignored (R124). -/
def mkpad (din : Block) (r : BitVec 6) : Block :=
  ofBytes fun n => if n < r.toNat then blockByte din n else if n = r.toNat then 0x01 else 0x00

/-- Block n of a byte string: x.b[j] = M[64n + j], unswapped (R42). Bytes past the end of the string, which no command
looks at, are 0. -/
def messageBlock (bytes : List Byte) (n : Nat) : Block := ofBytes fun j => bytes.getD (64 * n + j) 0

/-- The digest as lanes, lane 0 of the selection first: lanes 0..7 of DOUT in H512, lanes 4..7 in H256 (R63, R127). -/
def digestLanes (m : Mode) (dout : Block) : List Lane :=
  match m with
  | .h512 => (List.range' 0 8).map (lane dout)
  | .h256 => (List.range' 4 4).map (lane dout)

/-- The digest as a byte string, byte 0 first: DOUT.b[0..63] in H512, DOUT.b[32..63] in H256 (R43, R127). -/
def digestBytes (m : Mode) (dout : Block) : List Byte :=
  match m with
  | .h512 => (List.range' 0 64).map (blockByte dout)
  | .h256 => (List.range' 32 32).map (blockByte dout)

/-- Standard presentation of a digest, most significant byte first (R43); the host makes it, outside the engine. -/
def standardPresentation (m : Mode) (dout : Block) : List Byte := (digestBytes m dout).reverse

end Sys2Proof.Machine
end

