-- ==== Sys2Proof/Syntax.lean ====
section
/-! DEFINITION. The four commands, one constructor for each row of the opcode table (spec/30_encoding.md R67). -/

namespace Sys2Proof

/-- A command with its operands. The block operand of ABSORB and FINALIZE is all of DIN (R62, R66); NEW and RESET ignore
DIN and have none. The types leave no out-of-contract operand: a mode is one of two, a tail length is six bits (R65). -/
inductive Instr where
  /-- NEW mode: construct (R120). -/
  | new (m : Mode)
  /-- RESET: re-initialise for the same mode (R121). -/
  | reset
  /-- ABSORB block: absorb one full block (R122). -/
  | absorb (m : Block)
  /-- FINALIZE r, tail: the tail is bytes 0 to r-1 of DIN (R123). -/
  | finalize (r : BitVec 6) (din : Block)
  deriving DecidableEq, Repr

end Sys2Proof
end

