-- ==== Sys2Proof/WellFormed.lean ====
section
/-! DEFINITION. What is well formed at the interface, written from the field layout (spec/30_encoding.md R61) and the list of
reserved words (R68), without the mask-and-match table the decoder uses. Every term of Instr is well formed by its type
(the checks of a third mode and of a tail of 64 bytes or more "cannot be expressed", spec/60_exceptions.md R141), so the
checks are on what can be ill formed: a command word, and the byte strings of the API (spec/30_encoding.md R72, R74). -/

namespace Sys2Proof

open Machine

/-- The operation field names one of the four commands (R61, R67). -/
def opDefined (w : CmdWord) : Bool := 1 ≤ (opField w).toNat && (opField w).toNat ≤ 4

/-- The reserved field Z is 0 (R61). -/
def zClear (w : CmdWord) : Bool := zField w == 0

/-- The bits of ARG that R61 shows as 0 for this operation are 0. -/
def argReservedClear (w : CmdWord) : Bool :=
  match (opField w).toNat with
  | 1 => argField w >>> 1 == 0
  | 2 => argField w == 0
  | 3 => argField w == 0
  | 4 => argField w >>> 6 == 0
  | _ => true

/-- A command word that is not reserved (R68). -/
def wellFormedCmd (w : CmdWord) : Bool := opDefined w && zClear w && argReservedClear w

/-- A transaction with a command word that is not reserved; every DIN is a block (R62). -/
def Transaction.wellFormed (t : Transaction) : Bool := wellFormedCmd t.cmd

/-- The bytes of an UPDATE fill whole blocks (R72, spec/20_memory.md R46). -/
def wellFormedUpdate (bytes : List Byte) : Bool := bytes.length % 64 == 0

/-- A tail is shorter than a block (R46, R65). -/
def wellFormedTail (bytes : List Byte) : Bool := bytes.length < 64

end Sys2Proof
end

