-- ==== Sys2Proof/Decode.lean ====
section
/-! DEFINITION. The decoder, the four mask-and-match tests of the opcode map (spec/30_encoding.md R67, R69), total on every
transaction and rejecting a reserved word by the reason R68 gives; and after it the encoder, from the field layout R61. -/

namespace Sys2Proof

open Machine

/-- One row of the opcode map: a word w selects the row when (w & mask) = match (R67). -/
structure OpcodeRow where
  mnemonic : String
  pattern : CmdWord
  mask : CmdWord
  deriving DecidableEq, Repr

/-- Row NEW (R67). -/
def rowNew : OpcodeRow := { mnemonic := "NEW", pattern := 0x1000, mask := 0xFFFE }

/-- Row RESET (R67). -/
def rowReset : OpcodeRow := { mnemonic := "RESET", pattern := 0x2000, mask := 0xFFFF }

/-- Row ABSORB (R67). -/
def rowAbsorb : OpcodeRow := { mnemonic := "ABSORB", pattern := 0x3000, mask := 0xFFFF }

/-- Row FINALIZE (R67). -/
def rowFinalize : OpcodeRow := { mnemonic := "FINALIZE", pattern := 0x4000, mask := 0xFFC0 }

/-- The opcode map (R67). -/
def opcodeMap : List OpcodeRow := [rowNew, rowReset, rowAbsorb, rowFinalize]

/-- A word selects a row (R67). -/
def selects (w : CmdWord) (row : OpcodeRow) : Bool := (w &&& row.mask) == row.pattern

/-- Why a command word is reserved (R68). The engine reports nothing; the name is the model's. -/
inductive Reserved where
  /-- OP = 0x0 or 0x5 to 0xF. -/
  | undefinedOp
  /-- OP names a command and Z ≠ 0. -/
  | reservedField
  /-- OP names a command, Z = 0, and ARG has a bit that the command reserves. -/
  | reservedArgument
  deriving DecidableEq, Repr

/-- The first of R68's reasons that holds of a reserved word. -/
def reservedReason (w : CmdWord) : Reserved :=
  if !opDefined w then .undefinedOp else if !zClear w then .reservedField else .reservedArgument

/-- The decoder (R67, R69): independent of the engine's state. NEW and RESET ignore DIN (R62). -/
def decode (t : Transaction) : Except Reserved Instr :=
  if selects t.cmd rowNew then .ok (.new (modeOperand t.cmd))
  else if selects t.cmd rowReset then .ok .reset
  else if selects t.cmd rowAbsorb then .ok (.absorb t.din)
  else if selects t.cmd rowFinalize then .ok (.finalize (tailLength t.cmd) t.din)
  else .error (reservedReason t.cmd)

/-- A command word from its fields OP, Z = 0 and ARG (R61). -/
def cmdWord (op : BitVec 4) (arg : BitVec 8) : CmdWord := op ++ (0#4) ++ arg

/-- The encoder (R61, R62): ARG[0] of NEW is MODE, ARG[5:0] of FINALIZE is R. DIN of NEW and RESET, which the engine
ignores, is 0. -/
def encode : Instr → Transaction
  | .new m => { cmd := cmdWord 0x1 (0#7 ++ modeBit m), din := 0 }
  | .reset => { cmd := cmdWord 0x2 0, din := 0 }
  | .absorb m => { cmd := cmdWord 0x3 0, din := m }
  | .finalize r din => { cmd := cmdWord 0x4 (0#2 ++ r), din := din }

/-- The transaction whose bits are w as the opcode table numbers them: CMD is bits 15..0, and a DIN, where nbits reaches so
far, is the 512 bits above; every bit from nbits up is 0. DESIGN CHOICE, log entry 5. -/
def tableTransaction (nbits w : Nat) : Transaction :=
  { cmd := BitVec.ofNat 16 (w % 2 ^ nbits), din := BitVec.ofNat 512 ((w % 2 ^ nbits) >>> 16) }

/-- The instruction the decoder reads from the table word w of nbits bits. -/
def decodeTableWord (nbits w : Nat) : Option Instr :=
  match decode (tableTransaction nbits w) with
  | .ok i => some i
  | .error _ => none

end Sys2Proof
end

