-- ==== Sys2Proof/Machine/State.lean ====
section
/-! DEFINITION. The state of one engine, (MODE, h, N, Σ) and the ghost bit `constructed` (spec/10_state.md R20 to R33), with
the two ends of its command port (R28, R29): the transactions the host has still to present and the responses it has been
given. Also the reasons a step can stop, and the state after hardware reset. -/

namespace Sys2Proof.Machine

/-- One response: DOUT, the whole of h after step 5 of FINALIZE, and the digest selected from it by MODE (R29, R63,
R127). -/
structure Response where
  dout : Block
  digest : List Byte
  deriving DecidableEq, Repr

/-- What the host does to the engine: it presents a command, or asserts hardware reset (spec/70_reset_and_hazards.md
R160). -/
inductive HostInput where
  | command (t : Transaction)
  | hardwareReset
  deriving DecidableEq, Repr

/-- The state. `mode`, `h`, `N`, `sigma` are the engine's own registers, "no other state exists" (R20); `constructed` is
the ghost bit of R33. `pending`, `responses` and `resets` are the model's, log entries 1 to 3: the engine keeps no copy of
CMD, DIN or DOUT (R28, R29), and no command reads any of the three. -/
structure State where
  /-- MODE, the only control field (R27). -/
  mode : Mode
  /-- h, the chaining variable (R21). -/
  h : Block
  /-- N, the bit-length counter (R22). -/
  N : Block
  /-- Σ, the block sum (R23). -/
  sigma : Block
  /-- A NEW has executed since hardware reset (R33). -/
  constructed : Bool
  /-- What the host has still to do, the next input first. -/
  pending : List HostInput
  /-- The responses delivered to the host since hardware reset, the oldest first. -/
  responses : List Response
  /-- How many hardware resets came before the last one: the index of the values that reset left in the registers. -/
  resets : Nat
  deriving DecidableEq, Repr

/-- "The core has no failure modes": the engine raises no exception (spec/60_exceptions.md R140), so there is no fault. -/
inductive Fault where
  deriving DecidableEq, Repr

/-- Why a step has no next state: the inputs for which the spec says `refuse` (R141), and the model's own two. -/
inductive Refusal where
  /-- Raised by exec for an instruction without a meaning; safe. No arm raises it. -/
  | notModelled (mnemonic : String)
  /-- Raised by step for a reserved command word (spec/30_encoding.md R68: "a model gives a reserved word no step"); safe. -/
  | reservedCommand (why : Reserved)
  /-- Raised by RESET, ABSORB and FINALIZE before the first NEW (R33); safe. -/
  | notConstructed
  /-- Raised by step when the host does nothing: the engine steps once for each command (R25); safe. -/
  | noCommand
  /-- Raised by the product of several engines when the schedule names an engine that does not exist; safe. -/
  | noSuchEngine
  deriving DecidableEq, Repr

/-- After hardware reset (R34, R162, spec/70_reset_and_hazards.md R160): not constructed, and MODE, h, N and Σ at values
that nothing can know (log entry 1). The host has presented nothing and been given nothing. -/
def State.reset : State :=
  { mode := Config.resetMode 0, h := Config.resetH 0, N := Config.resetN 0, sigma := Config.resetSigma 0,
    constructed := false, pending := [], responses := [], resets := 0 }

end Sys2Proof.Machine
end

