-- ==== Sys2Proof/Machine/Ops.lean ====
section
/-! DEFINITION. The named operations on the state: the accessors through which every register is written, the command
port, the check that the engine is constructed, and the three operations of the hasher's state machine
(spec/44_commands.md, component C5). There is no operation that takes an exception and none that returns from one, because
the engine has none (spec/60_exceptions.md R140, R146), and none on memory, because it has no data memory (R31). -/

namespace Sys2Proof.Machine

/-- MODE <- m. -/
def State.setMode (s : State) (m : Mode) : State := { s with mode := m }

/-- h <- x. -/
def State.setH (s : State) (x : Block) : State := { s with h := x }

/-- N <- x. -/
def State.setN (s : State) (x : Block) : State := { s with N := x }

/-- Σ <- x. -/
def State.setSigma (s : State) (x : Block) : State := { s with sigma := x }

/-- constructed <- true (R33, R120): nothing but hardware reset makes it false. -/
def State.setConstructed (s : State) : State := { s with constructed := true }

/-- What the host has still to do. -/
def State.setPending (s : State) (inputs : List HostInput) : State := { s with pending := inputs }

/-- FINALIZE's response: DOUT <- dout, once, with the digest selected by MODE (R29, R63, R127). -/
def State.respond (s : State) (dout : Block) : State :=
  { s with responses := s.responses ++ [{ dout := dout, digest := digestBytes s.mode dout }] }

/-- The host presents t as the very next command. -/
def State.issue (s : State) (t : Transaction) : State := s.setPending (.command t :: s.pending)

/-- The next thing the host does to the engine, if there is one (R51, R52). -/
def fetch (s : State) : Option (HostInput × State) :=
  match s.pending with
  | [] => none
  | input :: rest => some (input, s.setPending rest)

/-- Hardware reset (spec/70_reset_and_hazards.md R160, R162): the engine is not constructed, and MODE, h, N and Σ hold no
value the spec defines (log entry 1). It does not perform init, and what the host does next is untouched. -/
def hardwareReset (s : State) : State :=
  { mode := Config.resetMode (s.resets + 1), h := Config.resetH (s.resets + 1), N := Config.resetN (s.resets + 1),
    sigma := Config.resetSigma (s.resets + 1), constructed := false, pending := s.pending, responses := [],
    resets := s.resets + 1 }

/-- RESET, ABSORB and FINALIZE have a meaning only on a constructed engine (R33, R141). -/
def whenConstructed (s t : State) : Host.Outcome State Fault Refusal :=
  if s.constructed then .next t else .refused .notConstructed

/-- init(m): h ← IV(m), N ← 0, Σ ← 0 (R74, R120, R121). -/
def initialise (m : Mode) (s : State) : State := ((s.setH (iv m)).setN 0).setSigma 0

/-- absorb_block(m) (R122): every right-hand side is evaluated on the state before the command. -/
def absorbBlock (m : Block) (s : State) : State :=
  ((s.setH (compress m s.N s.h false)).setSigma (add512le s.sigma m)).setN (add512le s.N (blk 512))

/-- finalize(tail) (R123), step by step: step 2 uses N before the increment, steps 4 and 5 use N and Σ after step 3 and
the h of the step before. -/
def finalizeTail (r : BitVec 6) (din : Block) (s : State) : State :=
  let pad := mkpad din r
  let s2 := s.setH (compress pad s.N s.h false)
  let s3 := (s2.setN (add512le s2.N (blk (8 * r.toNat)))).setSigma (add512le s2.sigma pad)
  let s4 := s3.setH (compress s3.N 0 s3.h true)
  let s5 := s4.setH (compress s4.sigma 0 s4.h true)
  s5.respond s5.h

end Sys2Proof.Machine
end

