-- ==== Sys2Proof/Machine/Hashing.lean ====
section
/-! DEFINITION. The hashing commands ABSORB and FINALIZE (spec/44_commands.md R122, R123). -/

namespace Sys2Proof.Machine

/-- ABSORB m: absorb one full block; MODE is neither read nor written (R122). -/
def execAbsorb (m : Block) (s : State) : Host.Outcome State Fault Refusal :=
  whenConstructed s (absorbBlock m s)

/-- FINALIZE r, tail: pad the tail, compress it, fold in the length and the sum, deliver the digest (R123). -/
def execFinalize (r : BitVec 6) (din : Block) (s : State) : Host.Outcome State Fault Refusal :=
  whenConstructed s (finalizeTail r din s)

end Sys2Proof.Machine
end

