-- ==== Sys2Proof/Machine/Init.lean ====
section
/-! DEFINITION. The initialising commands NEW and RESET (spec/44_commands.md R120, R121). -/

namespace Sys2Proof.Machine

/-- NEW m: construct. It reads no state, so it is the one command with a meaning before construction (R120). -/
def execNew (m : Mode) (s : State) : Host.Outcome State Fault Refusal :=
  .next (initialise m (s.setMode m)).setConstructed

/-- RESET: re-initialise for the mode the engine has; MODE is read and not written (R121). -/
def execReset (s : State) : Host.Outcome State Fault Refusal :=
  whenConstructed s (initialise s.mode s)

end Sys2Proof.Machine
end

