-- ==== Sys2Proof/Machine/Dispatch.lean ====
section
/-! DEFINITION. One arm for each command. -/

namespace Sys2Proof.Machine

def exec (i : Instr) (s : State) : Host.Outcome State Fault Refusal :=
  match i with
  | .new m => Sys2Proof.Machine.execNew m s
  | .reset => Sys2Proof.Machine.execReset s
  | .absorb m => Sys2Proof.Machine.execAbsorb m s
  | .finalize r din => Sys2Proof.Machine.execFinalize r din s

end Sys2Proof.Machine
end

