-- ==== Sys2Proof/Machine/Step.lean ====
section
/-! DEFINITION. One step: the engine executes the next command the host presents (spec/10_state.md R25, spec/20_memory.md
R51, R52), or is reset. -/

namespace Sys2Proof.Machine

/-- One command, one atomic transition (R51). A reserved word is refused whatever the state (R68, R145). -/
def step (s : State) : Host.Outcome State Fault Refusal :=
  match fetch s with
  | none => .refused .noCommand
  | some (.hardwareReset, s') => .next (hardwareReset s')
  | some (.command t, s') =>
    match decode t with
    | .ok i => exec i s'
    | .error why => .refused (.reservedCommand why)

/-- s with the table word w presented as the very next command (log entry 5). -/
def State.withFetchWord (s : State) (nbits w : Nat) : State := s.issue (tableTransaction nbits w)

end Sys2Proof.Machine
end

