-- ==== Sys2Proof/Machine/Engines.lean ====
section
/-! DEFINITION. Several engines (spec/60_exceptions.md R149): "the product of independent single-engine models, interleaved
in any order". The parameter NUM_ENGINES (spec/00_scope.md R6) is the length of the list. -/

namespace Sys2Proof.Machine

/-- Engine k executes its next command; no other engine's state is read or written (spec/20_memory.md R53). -/
def stepEngine (es : List State) (k : Nat) : Host.Outcome (List State) Fault Refusal :=
  match es[k]? with
  | none => .refused .noSuchEngine
  | some s =>
    match step s with
    | .next t => .next (es.set k t)
    | .fault r => .fault r
    | .refused r => .refused r

/-- The engines named by a schedule step one after another, stopping at the first that has no step. -/
def runSchedule : List Nat → List State → Host.Outcome (List State) Fault Refusal
  | [], es => .next es
  | k :: rest, es =>
    match stepEngine es k with
    | .next es' => runSchedule rest es'
    | .fault r => .fault r
    | .refused r => .refused r

end Sys2Proof.Machine
end

