-- ==== Sys2Proof/Machine/Pseudo.lean ====
section
/-! DEFINITION. The pseudo-commands UPDATE and ONE_SHOT and the API's finalize (spec/30_encoding.md R72 to R74,
spec/44_commands.md R125, R126): host-side expansions into commands, and how the host presents a list of commands. -/

namespace Sys2Proof.Machine

/-- One ABSORB for each whole block of the bytes, block n carrying bytes 64n to 64n+63, in increasing n (R72). -/
def absorbsOf (bytes : List Byte) : List Instr :=
  (List.range (bytes.length / 64)).map fun n => .absorb (messageBlock bytes n)

/-- UPDATE <bytes> (R72): no expansion where the length is not a multiple of 64. -/
def expandUpdate (bytes : List Byte) : Option (List Instr) :=
  if wellFormedUpdate bytes then some (absorbsOf bytes) else none

/-- The FINALIZE that carries a tail of fewer than 64 bytes (R65, R66, R70). -/
def finalizeOf (tail : List Byte) : Instr := .finalize (BitVec.ofNat 6 tail.length) (messageBlock tail 0)

/-- Hasher.finalize(tail) (R74): no command where the tail has 64 bytes or more (R46, R65). -/
def expandFinalize (tail : List Byte) : Option Instr :=
  if wellFormedTail tail then some (finalizeOf tail) else none

/-- ONE_SHOT <bytes> (R73): with s the length rounded down to a multiple of 64, UPDATE of the first s bytes, then FINALIZE
with the rest; no NEW and no RESET. -/
def expandOneShot (bytes : List Byte) : List Instr :=
  let s := bytes.length - bytes.length % 64
  absorbsOf (bytes.take s) ++ [finalizeOf (bytes.drop s)]

/-- The host's inputs that present a list of commands, in order (R52, R60). -/
def presented (is : List Instr) : List HostInput := is.map fun i => .command (encode i)

end Sys2Proof.Machine
end

