-- ==== Sys2Proof/Safety.lean ====
section
/-! DEFINITION. The terms claims are made in: a step that is taken, the host's side of the contract
(spec/70_reset_and_hazards.md R164 to R168), the invariant of the state, and the value a completed message must have
(spec/44_commands.md R129, R130). -/

namespace Sys2Proof.Machine

/-- k steps of the machine, stopping at the first that is not taken: the host interface's run, at the model's own types. -/
def runSteps (k : Nat) (s : State) : Host.Outcome State Fault Refusal := Sys2Proof.core.run k s

/-- The engine takes a step: no fault and no refusal. -/
def CanStep (s : State) : Prop := ∃ t, step s = .next t

/-- Where a host stands with an engine it owns (R164, R168). The engine holds no such bit: "a host-side proof that wants the
stricter discipline can carry the bit itself" (spec/92_eei_decisions.md, on D12). -/
inductive HostPhase where
  /-- Nothing issued since hardware reset. -/
  | unconstructed
  /-- NEW or RESET issued, the message not yet ended. -/
  | inMessage
  /-- FINALIZE issued, the response delivered. -/
  | finished
  deriving DecidableEq, Repr

/-- What the contract lets the host issue, and the phase that follows: NEW first (R164), FINALIZE last (R166), and NEW or
RESET before the next message (R168). -/
def HostPhase.after : HostPhase → Instr → Option HostPhase
  | _, .new _ => some .inMessage
  | .unconstructed, _ => none
  | _, .reset => some .inMessage
  | .inMessage, .absorb _ => some .inMessage
  | .inMessage, .finalize _ _ => some .finished
  | .finished, .absorb _ => none
  | .finished, .finalize _ _ => none

/-- The host keeps the contract over a list of commands. -/
def keepsContract : HostPhase → List Instr → Bool
  | _, [] => true
  | p, i :: rest =>
    match p.after i with
    | some q => keepsContract q rest
    | none => false

/-- The invariant of a reachable state: N counts the bits of whole bytes; nothing is delivered by an engine that was never
constructed; every digest delivered is a selection from its DOUT. -/
structure Inv (s : State) : Prop where
  wholeBytes : s.constructed = true → s.N.toNat % 8 = 0
  silentBeforeNew : s.constructed = false → s.responses = []
  digestsSelected : ∀ r ∈ s.responses, ∃ m, r.digest = digestBytes m r.dout

/-- The sum of blocks as integers (R129). -/
def sumOf (ms : List Block) : Nat := (ms.map BitVec.toNat).sum

/-- The chaining value after the blocks m_1 … m_k of a message, the counter entering compression i + 1 being 512·i (R130). -/
def chainFrom (i : Nat) (h : Block) : List Block → Block
  | [] => h
  | m :: ms => chainFrom (i + 1) (compress m (BitVec.ofNat 512 (512 * i)) h false) ms

/-- The whole blocks of a message (R42). -/
def wholeBlocks (bytes : List Byte) : List Block := (List.range (bytes.length / 64)).map (messageBlock bytes)

/-- The pad block of a message (R124): its last bytes.length mod 64 bytes, then 0x01, then zeros. -/
def padOf (bytes : List Byte) : Block :=
  mkpad (messageBlock bytes (bytes.length / 64)) (BitVec.ofNat 6 (bytes.length % 64))

/-- The final block of the Streebog hash of a message, in closed form from the length and the block sum (R123, R129, R130):
h over the whole blocks, then over the pad, then over the length in bits, then over the sum of all blocks. -/
def streebogBlock (m : Mode) (bytes : List Byte) : Block :=
  let blocks := wholeBlocks bytes
  let hBlocks := chainFrom 0 (iv m) blocks
  let hPad := compress (padOf bytes) (BitVec.ofNat 512 (512 * blocks.length)) hBlocks false
  let hLength := compress (BitVec.ofNat 512 (8 * bytes.length)) 0 hPad true
  compress (BitVec.ofNat 512 (sumOf blocks + (padOf bytes).toNat)) 0 hLength true

end Sys2Proof.Machine
end

