-- ==== Sys2Proof/Certificates/Slice0/Obligations.lean ====
section
/-! DEFINITION. The statements for the provers. Each docstring names the rule of spec/ it formalises, and says where the
spec marks what it rests on as its own decision (Dn of spec/92_eei_decisions.md) or as derived. -/

open Sys2Proof Sys2Proof.Machine

/-! ### The views of a block and the primitives -/

/-- R41 (and the two mappings of R40): a block is one 512-bit integer, little-endian across lanes and bytes, and that integer
is the one add512_le adds, N counts in, and Σ sums. -/
def Obligations.BlockIsLittleEndianInteger : Prop :=
  (∀ x : Block,
    x.toNat = ((List.range 8).map fun k => (lane x k).toNat * 2 ^ (64 * k)).sum ∧
    x.toNat = ((List.range 64).map fun j => (blockByte x j).toNat * 2 ^ (8 * j)).sum ∧
    (∀ k < 8, (lane x k).toNat = ((List.range 8).map fun p => (blockByte x (8 * k + p)).toNat * 2 ^ (8 * p)).sum) ∧
    (∀ k < 8, ∀ p < 8, blockByte x (8 * k + p) = laneByte (lane x k) p)) ∧
  (∀ a b : Block, (add512le a b).toNat = (a.toNat + b.toNat) % 2 ^ 512) ∧
  (∀ (m : Block) (s : State), s.constructed = true →
    ∃ t, exec (.absorb m) s = .next t ∧ t.N.toNat = (s.N.toNat + 512) % 2 ^ 512 ∧
      t.sigma.toNat = (s.sigma.toNat + m.toNat) % 2 ^ 512)

/-- R100: xor512 is the lane-wise exclusive or, with no interaction between lanes or bits. -/
def Obligations.XorIsLanewise : Prop :=
  (∀ l r : Block,
    (∀ k < 8, lane (xor512 l r) k = lane l k ^^^ lane r k) ∧
    (∀ i < 512, (xor512 l r).getLsbD i = (l.getLsbD i ^^ r.getLsbD i)) ∧
    xor512 l r = xor512 r l ∧ (∀ x, xor512 (xor512 l r) x = xor512 l (xor512 r x)) ∧
    xor512 l l = 0 ∧ xor512 l 0 = l) ∧
  xor512 (ofLanes fun _ => 0x0101010101010101) (ofLanes fun _ => 0x00000000000000ff) =
    ofLanes fun _ => 0x01010101010101fe

/-- R102: add512_le is the ascending eight-lane carry chain whose last carry is dropped, which is addition modulo 2^512. -/
def Obligations.AddIsCarryChainModulo : Prop :=
  (∀ a b : Block,
    (∃ c : Nat → Nat, c 0 = 0 ∧ ∀ k < 8, c k ≤ 1 ∧
      (lane a k).toNat + (lane b k).toNat + c k ≤ 2 ^ 65 - 1 ∧
      (lane (add512le a b) k).toNat = ((lane a k).toNat + (lane b k).toNat + c k) % 2 ^ 64 ∧
      c (k + 1) = ((lane a k).toNat + (lane b k).toNat + c k) / 2 ^ 64) ∧
    (add512le a b).toNat = (a.toNat + b.toNat) % 2 ^ 512 ∧
    add512le a b = add512le b a ∧
    (∀ x, add512le (add512le a b) x = add512le a (add512le b x)) ∧
    add512le a 0 = a ∧
    (a.toNat = 2 ^ 512 - 1 → b.toNat = 1 → add512le a b = 0) ∧
    (a.toNat = 2 ^ 512 - 1 → b.toNat = 2 ^ 512 - 1 → (add512le a b).toNat = 2 ^ 512 - 2)) ∧
  add512le 0xffffffffffffffff 1 = 0x10000000000000000

/-- R103 (the carry into the higher lanes is the spec's decision D18): the two increments of N. The first clause
is over every natural v: R103's v fits lane 0, and that a v of 2^64 or more is cut to its low 64 bits is the model's choice
(DESIGN CHOICE, log entry 10). -/
def Obligations.CounterIncrements : Prop :=
  (∀ v, lane (blk v) 0 = BitVec.ofNat 64 v ∧ ∀ k, 0 < k → k < 8 → lane (blk v) k = 0) ∧
  (∀ N : Block, (add512le N (blk 512)).toNat = (N.toNat + 512) % 2 ^ 512) ∧
  (∀ (N : Block) (r : BitVec 6), (add512le N (blk (8 * r.toNat))).toNat = (N.toNat + 8 * r.toNat) % 2 ^ 512) ∧
  add512le 0 (blk 512) = 0x200 ∧ add512le 0xfffffffffffffe00 (blk 512) = 0x10000000000000000

/-- R105: iv is total on the two modes. -/
def Obligations.IvByMode : Prop :=
  (∀ m : Mode, m = .h256 ∨ m = .h512) ∧ iv .h512 = 0 ∧
  (∀ n < 64, blockByte (iv .h256) n = 0x01) ∧ (∀ k < 8, lane (iv .h256) k = 0x0101010101010101)

/-! ### S, P, L, T and LPSX -/

/-- R80's own checks (derived there, on values from general knowledge, log entry 9): π is a permutation without a fixed point,
0x00 only at 0xa5, and its entries sum to 32640. -/
def Obligations.SboxIsPermutation : Prop :=
  Function.Bijective sbox ∧ (∀ b, sbox b ≠ b) ∧ (∀ b, sbox b = 0x00 ↔ b = 0xa5) ∧
  ((List.range 256).map fun n => (sbox (BitVec.ofNat 8 n)).toNat).sum = 32640 ∧
  sbox 0x00 = 0xfc ∧ sbox 0x01 = 0xee ∧ sbox 0x10 = 0xe9 ∧ sbox 0xff = 0xb6

/-- R49, R50: the words of the spaces PI, A and C are the listed ones, at the listed indices (values from general
knowledge, as the spec marks them, log entry 9). -/
def Obligations.ConstantSpacesHoldTables : Prop :=
  (piLow ++ piHigh).length = 256 ∧ matrixA.length = 64 ∧ roundWords.length = 96 ∧
  (∀ b : Byte, sbox b = (piLow ++ piHigh).getD b.toNat 0) ∧ (∀ j < 64, rowA j = matrixA.getD j 0) ∧
  (∀ i k, 1 ≤ i → i ≤ 12 → k < 8 → lane (roundConst i) k = roundWords.getD (8 * (i - 1) + k) 0)

/-- R90: S substitutes each of the 64 bytes by the same table. That S is a bijection, and the three examples (derived there
from R80), rest on the values of π, which are from general knowledge: log entry 9, PRESUMED. -/
def Obligations.SubstitutionActsOnEveryByte : Prop :=
  (∀ x : Block, ∀ n < 64, blockByte (subS x) n = sbox (blockByte x n)) ∧
  Function.Bijective subS ∧
  subS (ofBytes fun _ => 0x01) = ofBytes (fun _ => 0xee) ∧ subS 0 = ofBytes (fun _ => 0xfc) ∧
  subS (ofBytes fun _ => 0xa5) = 0

/-- R91 (derived there from the source's table form): P is the transpose of the 8×8 byte matrix, and its own inverse. -/
def Obligations.PermutationIsTranspose : Prop :=
  (∀ x : Block, (∀ i < 8, ∀ j < 8, blockByte (permP x) (8 * j + i) = blockByte x (8 * i + j)) ∧ permP (permP x) = x) ∧
  (∀ k < 8, lane (permP (ofBytes fun n => BitVec.ofNat 8 n)) k =
    0x3830282018100800 + BitVec.ofNat 64 k * 0x0101010101010101)

/-- R92: bit n of a lane selects row A[63 - n]; l is linear; L is l on every lane. That l is
invertible (R81, derived there), and the four examples (derived there from R81), rest on the values of A, which are from
general knowledge: log entry 9, PRESUMED. -/
def Obligations.LinearLayer : Prop :=
  (∀ w : Lane, linLane w = xorOver (fun n => if w.getLsbD n then rowA (63 - n) else 0) 64) ∧
  (∀ n < 64, linLane ((1 : Lane) <<< n) = rowA (63 - n)) ∧
  (∀ u v : Lane, linLane (u ^^^ v) = linLane u ^^^ linLane v) ∧ linLane 0 = 0 ∧
  Function.Bijective linLane ∧
  (∀ x : Block, ∀ k < 8, lane (linL x) k = linLane (lane x k)) ∧
  linLane 0x0000000000000001 = 0x641c314b2b8ee083 ∧ linLane 0x8000000000000000 = 0x8e20faa72ba0b470 ∧
  linLane 0x0000000000000003 = 0xac2453dd7d8f3d98 ∧ linLane 0xffffffffffffffff = 0xab8eff9ec7466498

/-- R93: T[i][b] is the exclusive or of the rows that the bits of π[b] select, row i using only A[56 - 8i] to A[63 - 8i]:
the image under l of a lane whose byte i is π[b] and whose other bytes are zero. -/
def Obligations.TableEntryIsImageOfByte : Prop :=
  ∀ i < 8, ∀ b : Byte,
    tableT i b = xorOver (fun k => if (sbox b).getLsbD k then rowA (63 - k - 8 * i) else 0) 8 ∧
    (∀ k < 8, 56 - 8 * i ≤ 63 - k - 8 * i ∧ 63 - k - 8 * i ≤ 63 - 8 * i) ∧
    tableT i b = linLane ((sbox b).setWidth 64 <<< (8 * i))

/-- R96 (derived there, on the values of π and A, log entry 9, PRESUMED): the zero entries, the single-row entries,
injective rows, and the exclusive or of a row. -/
def Obligations.TableRowFacts : Prop :=
  (∀ i < 8, (∀ b, tableT i b = 0 ↔ b = 0xa5) ∧ tableT i 0x2d = rowA (63 - 8 * i) ∧ tableT i 0x7b = rowA (56 - 8 * i) ∧
    Function.Injective (tableT i) ∧
    (∀ b b' b'' : Byte, sbox b ^^^ sbox b' = sbox b'' → tableT i b ^^^ tableT i b' = tableT i b'') ∧
    xorOver (fun n => tableT i (BitVec.ofNat 8 n)) 256 = 0) ∧
  (∀ k < 8, lane (linL (permP (subS 0))) k = 0xb383fc2eced4a574)

/-- R94: the table form is L after P after S, lane by lane. -/
def Obligations.TableFormIsLPS : Prop :=
  (∀ x : Block, ∀ j < 8,
    lane (linL (permP (subS x))) j = xorOver (fun i => tableT i (laneByte (lane x i) j)) 8) ∧
  ∀ l r : Block, lpsx l r = linL (permP (subS (xor512 l r)))

/-- R101: LPSX by the table, its shift form, its symmetry and its corner cases. The constant 0xb383fc2eced4a574 and the
corner at bytes all 0xa5 rest on the values of π and A, which are from general knowledge: log entry 9, PRESUMED. -/
def Obligations.LpsxByTable : Prop :=
  ∀ l r : Block,
    (∀ j < 8, lane (lpsx l r) j = xorOver (fun i => tableT i (laneByte (lane l i ^^^ lane r i) j)) 8) ∧
    (∀ w : Lane, ∀ j < 8, laneByte w j = laneByte (w >>> (8 * j)) 0) ∧
    lpsx l r = linL (permP (subS (xor512 l r))) ∧ lpsx l r = lpsx r l ∧
    (∀ k < 8, lane (lpsx l l) k = 0xb383fc2eced4a574) ∧ lpsx l 0 = linL (permP (subS l)) ∧
    ((∀ n < 64, blockByte (xor512 l r) n = 0xa5) → lpsx l r = 0)

/-- spec/95_test_vectors.md section 3.3, "changing byte j of input lane i changes output lane j only": and does change it,
which rests on the values of π and A (log entry 9, PRESUMED). -/
def Obligations.OneByteMovesOneLane : Prop :=
  ∀ x y : Block, ∀ i < 8, ∀ j < 8,
    (∀ n < 64, n ≠ 8 * i + j → blockByte x n = blockByte y n) → blockByte x (8 * i + j) ≠ blockByte y (8 * i + j) →
    ∀ k < 8, (lane (lpsx x 0) k ≠ lane (lpsx y 0) k ↔ k = j)

/-! ### The compression function -/

/-- R113: thirteen round keys, twelve LPSX rounds, the last key entering only through the final exclusive or. -/
def Obligations.CompressIsTwelveRoundsAndKey : Prop :=
  ∀ m N h : Block,
    roundKey (lpsx h N) 0 = lpsx h N ∧
    (∀ i, 1 ≤ i → i ≤ 12 → roundKey (lpsx h N) i = lpsx (roundKey (lpsx h N) (i - 1)) (roundConst i)) ∧
    roundText (lpsx h N) m 1 = lpsx (roundKey (lpsx h N) 0) m ∧
    (∀ i, 1 ≤ i → i ≤ 11 →
      roundText (lpsx h N) m (i + 1) = lpsx (roundKey (lpsx h N) i) (roundText (lpsx h N) m i)) ∧
    permE (lpsx h N) m = xor512 (roundText (lpsx h N) m 12) (roundKey (lpsx h N) 12) ∧
    compress m N h false = xor512 (xor512 (permE (lpsx h N) m) h) m

/-- R112 (derived there): is_zero overrides N with the all-zero block, and then N is not read. -/
def Obligations.IsZeroOverridesCounter : Prop :=
  ∀ m N N' h : Block,
    compress m N h true = compress m 0 h false ∧ compress m N h true = compress m N' h true ∧
    compress m 0 h true = compress m 0 h false

/-! ### The encoding -/

/-- The encoding vectors of spec/95_test_vectors.md section 2, whatever DIN is (the encoding is the spec's decision D3). -/
def Obligations.KnownWordsDecode : Prop :=
  ∀ d : Block,
    decode { cmd := 0x1000, din := d } = .ok (.new .h256) ∧ decode { cmd := 0x1001, din := d } = .ok (.new .h512) ∧
    decode { cmd := 0x2000, din := d } = .ok .reset ∧ decode { cmd := 0x3000, din := d } = .ok (.absorb d) ∧
    decode { cmd := 0x4000, din := d } = .ok (.finalize 0 d) ∧ decode { cmd := 0x4008, din := d } = .ok (.finalize 8 d) ∧
    decode { cmd := 0x403F, din := d } = .ok (.finalize 63 d) ∧
    decode { cmd := 0x0000, din := d } = .error .undefinedOp ∧
    decode { cmd := 0x1002, din := d } = .error .reservedArgument ∧
    decode { cmd := 0x1101, din := d } = .error .reservedField ∧
    decode { cmd := 0x2001, din := d } = .error .reservedArgument ∧
    decode { cmd := 0x3001, din := d } = .error .reservedArgument ∧
    decode { cmd := 0x4040, din := d } = .error .reservedArgument ∧
    decode { cmd := 0x4080, din := d } = .error .reservedArgument ∧
    decode { cmd := 0x5000, din := d } = .error .undefinedOp ∧ decode { cmd := 0xFFFF, din := d } = .error .undefinedOp

/-- Decoding an encoded command gives it back, with every operand at every value (R61 against R67; the encoding is the
spec's decision D3). -/
def Obligations.DecodeOfEncode : Prop :=
  ∀ i : Instr, decode (encode i) = .ok i

/-- A transaction that decodes is the encoding of what it decodes to, but for the DIN that NEW and RESET ignore (R62, R67). -/
def Obligations.EncodeOfDecode : Prop :=
  ∀ (c : Transaction) (i : Instr), decode c = .ok i →
    (encode i).cmd = c.cmd ∧
    (∀ m, i = .absorb m → encode i = c) ∧ (∀ r din, i = .finalize r din → encode i = c) ∧
    ((∃ m, i = .new m) ∨ i = .reset → ∀ d, decode { cmd := c.cmd, din := d } = .ok i)

/-- R67 (the spec's decision D3): the rows do not overlap, and the defined words are 0x1000, 0x1001, 0x2000, 0x3000 and
0x4000 to 0x403F, each with the operands its fields give. -/
def Obligations.DefinedCommandWords : Prop :=
  (∀ w : CmdWord, (opcodeMap.filter (selects w)).length ≤ 1) ∧
  ∀ c : Transaction,
    (∀ m, decode c = .ok (.new m) ↔ c.cmd.toNat = 0x1000 ∧ m = .h256 ∨ c.cmd.toNat = 0x1001 ∧ m = .h512) ∧
    (decode c = .ok .reset ↔ c.cmd.toNat = 0x2000) ∧
    (∀ m, decode c = .ok (.absorb m) ↔ c.cmd.toNat = 0x3000 ∧ m = c.din) ∧
    (∀ r din, decode c = .ok (.finalize r din) ↔ c.cmd.toNat = 0x4000 + r.toNat ∧ din = c.din)

/-- R68, R145 (the spec's decision D7): exactly the reserved words are refused by that name, whatever the state. OP, Z and
ARG are the three fields of R61 as numbers. -/
def Obligations.ReservedWordsRefused : Prop :=
  ∀ (s : State) (c : Transaction) (rest : List HostInput), s.pending = .command c :: rest →
    ((∃ why, step s = .refused (.reservedCommand why)) ↔
      let op := c.cmd.toNat / 4096
      let z := c.cmd.toNat / 256 % 16
      let arg := c.cmd.toNat % 256
      op = 0 ∨ 5 ≤ op ∨ z ≠ 0 ∨ (op = 1 ∧ arg / 2 ≠ 0) ∨ ((op = 2 ∨ op = 3) ∧ arg ≠ 0) ∨ (op = 4 ∧ arg / 64 ≠ 0))

/-! ### The commands -/

/-- When the next input of the host is a command that decodes, a step is its execution, after the input is taken; a reserved
word, no input, and hardware reset are the other three cases (R51, R52, R68; log entries 2 and 4). -/
def Obligations.StepRunsDecodedCommand : Prop :=
  ∀ (s : State) (rest : List HostInput),
    (∀ c i, s.pending = .command c :: rest → decode c = .ok i → step s = exec i { s with pending := rest }) ∧
    (∀ c why, s.pending = .command c :: rest → decode c = .error why → step s = .refused (.reservedCommand why)) ∧
    (s.pending = .hardwareReset :: rest → step s = .next (hardwareReset { s with pending := rest })) ∧
    (s.pending = [] → step s = .refused .noCommand)

/-- R120 (that NEW is accepted at any time is the spec's decision D16, the bit `constructed` D8): NEW m answers the state
init(m) from any state whatever, and reads none of the registers it overwrites. -/
def Obligations.NewConstructs : Prop :=
  ∀ (m : Mode) (s : State),
    exec (.new m) s = .next { s with mode := m, h := iv m, N := 0, sigma := 0, constructed := true } ∧
    (∀ m' h' N' S' c',
      exec (.new m) { s with mode := m', h := h', N := N', sigma := S', constructed := c' } = exec (.new m) s) ∧
    (s.constructed = true → s.mode = m → exec (.new m) s = exec .reset s)

/-- R121 (refusing RESET before NEW is the spec's decision D8): RESET re-initialises for the mode the engine has, everything
else unchanged; directly after NEW or RESET it changes nothing. -/
def Obligations.ResetReinitialises : Prop :=
  ∀ s : State,
    (s.constructed = true → exec .reset s = .next { s with h := iv s.mode, N := 0, sigma := 0 }) ∧
    (s.constructed = false → exec .reset s = .refused .notConstructed) ∧
    (∀ t, exec .reset s = .next t → exec .reset t = .next t) ∧
    (∀ m t, exec (.new m) s = .next t → exec .reset t = .next t)

/-- R122: ABSORB m on a constructed engine, the three right-hand sides on the state before the command, everything else
unchanged; MODE is not read; a zero block moves h and N by the same equations and leaves Σ. -/
def Obligations.AbsorbCompressesBlock : Prop :=
  ∀ (m : Block) (s : State), s.constructed = true →
    exec (.absorb m) s =
      .next { s with h := compress m s.N s.h false, sigma := add512le s.sigma m, N := add512le s.N (blk 512) } ∧
    (∀ m', exec (.absorb m) { s with mode := m' } =
      .next { s with mode := m', h := compress m s.N s.h false, sigma := add512le s.sigma m,
                     N := add512le s.N (blk 512) }) ∧
    add512le s.sigma 0 = s.sigma ∧ add512le s.N (blk 512) ≠ s.N ∧
    (∀ d, decode { cmd := 0x3000, din := d } = .ok (.absorb d))

/-- R123: FINALIZE on a constructed engine, its six steps in order, everything else unchanged; the response is h after step
5 with the digest MODE selects; an empty tail leaves N; the tail length is the word's low six bits. -/
def Obligations.FinalizePadsAndFolds : Prop :=
  ∀ (r : BitVec 6) (din : Block) (s : State), s.constructed = true →
    let pad := mkpad din r
    let h2 := compress pad s.N s.h false
    let N3 := add512le s.N (blk (8 * r.toNat))
    let sigma3 := add512le s.sigma pad
    let h4 := compress N3 0 h2 true
    let h5 := compress sigma3 0 h4 true
    exec (.finalize r din) s =
      .next { s with h := h5, N := N3, sigma := sigma3,
                     responses := s.responses ++ [{ dout := h5, digest := digestBytes s.mode h5 }] } ∧
    (r = 0 → N3 = s.N ∧ pad = 0x01) ∧ (r = 63 → blockByte pad 63 = 0x01) ∧
    decode { cmd := 0x4000 ||| r.setWidth 16, din := din } = .ok (.finalize r din)

/-- R124 (that DIN from byte r upward is ignored is the spec's decision D6): the pad block, by bytes and as an integer. -/
def Obligations.PadBlock : Prop :=
  (∀ (din : Block) (r : BitVec 6),
    (∀ n < r.toNat, blockByte (mkpad din r) n = blockByte din n) ∧
    blockByte (mkpad din r) r.toNat = 0x01 ∧
    (∀ n, r.toNat < n → n ≤ 63 → blockByte (mkpad din r) n = 0x00) ∧
    (mkpad din r).toNat = din.toNat % 2 ^ (8 * r.toNat) + 2 ^ (8 * r.toNat)) ∧
  mkpad (messageBlock [0x61, 0x62, 0x63] 0) 3 = 0x0000000001636261

/-- R127, R43 (what the response carries is the spec's decision D15): the digest is all of DOUT in H512 and lanes 4..7, that
is bytes 32..63, in H256; standard presentation is its bytes in reverse. -/
def Obligations.DigestIsSelection : Prop :=
  ∀ dout : Block,
    digestLanes .h512 dout = (List.range 8).map (lane dout) ∧
    digestLanes .h256 dout = [lane dout 4, lane dout 5, lane dout 6, lane dout 7] ∧
    (∀ m, digestBytes m dout = (digestLanes m dout).flatMap fun w => (List.range 8).map (laneByte w)) ∧
    (∀ m, (standardPresentation m dout).length = (match m with | .h256 => 32 | .h512 => 64)) ∧
    (∀ m, ∀ n < (standardPresentation m dout).length, (standardPresentation m dout)[n]? = some (blockByte dout (63 - n)))

/-- R33, R34, R141 (the spec's decisions D1 and D8): before the first NEW only NEW has a meaning. -/
def Obligations.OnlyNewBeforeConstruction : Prop :=
  ∀ s : State, s.constructed = false →
    (∀ m, exec (.new m) s = .next { s with mode := m, h := iv m, N := 0, sigma := 0, constructed := true }) ∧
    exec .reset s = .refused .notConstructed ∧ (∀ m, exec (.absorb m) s = .refused .notConstructed) ∧
    (∀ r din, exec (.finalize r din) s = .refused .notConstructed)

/-- R160, R162 (the spec's decision D1; what it leaves in the registers is log entry 1): hardware reset leaves the engine not
constructed and the host's further inputs untouched, and State.reset is such a state with no input. -/
def Obligations.HardwareResetUnconstructs : Prop :=
  State.reset.constructed = false ∧ State.reset.pending = [] ∧ State.reset.responses = [] ∧
  ∀ (s : State) (rest : List HostInput), s.pending = .hardwareReset :: rest →
    ∃ t, step s = .next t ∧ t.constructed = false ∧ t.pending = rest ∧
      (∀ i : Instr, (∀ m, i ≠ .new m) → exec i t = .refused .notConstructed) ∧
      (∀ m, ∃ u, exec (.new m) t = .next u ∧ u.mode = m ∧ u.h = iv m ∧ u.N = 0 ∧ u.sigma = 0)

/-- R128 (the spec's decision D12): after FINALIZE the engine keeps MODE, holds the block it returned, and executes ABSORB
and FINALIZE by their rules on what is left. -/
def Obligations.CommandsAfterFinalizeExecute : Prop :=
  ∀ (r : BitVec 6) (din : Block) (s : State), s.constructed = true →
    ∃ t, exec (.finalize r din) s = .next t ∧ t.mode = s.mode ∧
      t.responses = s.responses ++ [{ dout := t.h, digest := digestBytes t.mode t.h }] ∧
      (∀ m, ∃ u, exec (.absorb m) t = .next u ∧ u.h = compress m t.N t.h false) ∧
      (∀ r' din', ∃ u, exec (.finalize r' din') t = .next u ∧
        u.N = add512le t.N (blk (8 * r'.toNat)) ∧ u.sigma = add512le t.sigma (mkpad din' r'))

/-- The frame of the four commands (R24, derived there, and R27): what each leaves unchanged when it answers a next state. -/
def Obligations.CommandFrame : Prop :=
  ∀ (i : Instr) (s t : State), exec i s = .next t →
    t.pending = s.pending ∧ t.resets = s.resets ∧ t.constructed = true ∧
    ((∀ m, i ≠ .new m) → t.mode = s.mode) ∧
    ((∀ r din, i ≠ .finalize r din) → t.responses = s.responses) ∧
    (∀ r din, i = .finalize r din → ∃ out, t.responses = s.responses ++ [out] ∧ out.dout = t.h)

/-! ### Rules about the whole machine -/

/-- R140: no exception, and every defined command on a constructed engine completes and leaves the state its rule gives. -/
def Obligations.DefinedCommandsComplete : Prop :=
  (∀ (s : State) (r : Fault), step s ≠ .fault r) ∧
  ∀ (s : State) (c : Transaction) (rest : List HostInput),
    s.pending = .command c :: rest → c.wellFormed = true → s.constructed = true →
    ∃ i t, decode c = .ok i ∧ step s = .next t ∧ exec i { s with pending := rest } = .next t

/-- R51, R52: one step takes one input of the host, in order, and a command reads the state the one before it left. -/
def Obligations.CommandsTakeEffectInOrder : Prop :=
  (∀ s t : State, step s = .next t → ∃ input, s.pending = input :: t.pending) ∧
  ∀ (i : Instr) (is : List Instr) (rest : List HostInput) (s t : State),
    s.pending = presented (i :: is) ++ rest → exec i { s with pending := presented is ++ rest } = .next t →
    t.pending = presented is ++ rest ∧ runSteps (is.length + 1) s = runSteps is.length t

/-- R27 (what a NEW on a constructed engine means is the spec's decision D16): MODE changes by NEW and by nothing else but
hardware reset. -/
def Obligations.ModeChangesOnlyByNew : Prop :=
  ∀ s t : State, step s = .next t → t.mode ≠ s.mode →
    (∃ rest, s.pending = .hardwareReset :: rest) ∨
    ∃ c rest, s.pending = .command c :: rest ∧ decode c = .ok (.new t.mode)

/-- R27, R24 (the latter derived there), over whole command sequences: no command changes MODE between one NEW and the next,
and a sequence delivers one response for each FINALIZE in it and no other. -/
def Obligations.ModeImmutableBetweenNews : Prop :=
  ∀ (is : List Instr) (rest : List HostInput) (s t : State), (∀ i ∈ is, ∀ m, i ≠ .new m) →
    runSteps is.length { s with pending := presented is ++ rest } = .next t →
    t.mode = s.mode ∧ t.pending = rest ∧
    ∃ out, t.responses = s.responses ++ out ∧
      out.length = is.countP (fun i => match i with | .finalize _ _ => true | _ => false)

/-- R33 (the spec's decision D8): only NEW makes an engine constructed, only hardware reset undoes it, and an engine that is
not constructed takes no other step. -/
def Obligations.ConstructedOnlyByNew : Prop :=
  ∀ s t : State, step s = .next t →
    (t.constructed = false ↔ ∃ rest, s.pending = .hardwareReset :: rest) ∧
    (s.constructed = false → t.constructed = true →
      ∃ c rest, s.pending = .command c :: rest ∧ decode c = .ok (.new t.mode) ∧ t.h = iv t.mode ∧ t.N = 0 ∧ t.sigma = 0)

/-- R24, R29, R63 (the spec's decision D15): no command but FINALIZE delivers anything, and FINALIZE delivers the h it
leaves, once. -/
def Obligations.ResponsesOnlyByFinalize : Prop :=
  ∀ (s t : State) (c : Transaction) (rest : List HostInput),
    s.pending = .command c :: rest → step s = .next t →
    ((∃ r din, decode c = .ok (.finalize r din)) →
      t.responses = s.responses ++ [{ dout := t.h, digest := digestBytes t.mode t.h }]) ∧
    ((∀ r din, decode c ≠ .ok (.finalize r din)) → t.responses = s.responses)

/-- R66, R124 (the spec's decision D6): what the host puts in DIN bytes r to 63 of a FINALIZE has no effect. -/
def Obligations.FinalizeIgnoresBytesPastTail : Prop :=
  ∀ (r : BitVec 6) (d d' : Block) (s : State),
    (∀ n < r.toNat, blockByte d n = blockByte d' n) → exec (.finalize r d) s = exec (.finalize r d') s

/-- R131: the engine's registers and its response after the same commands are the same, whatever two engines held before
NEW and whatever their hosts do afterwards. -/
def Obligations.SameCommandsSameDigests : Prop :=
  ∀ (m : Mode) (is : List Instr) (rest rest' : List HostInput) (s s' t : State),
    runSteps (is.length + 1) { s with pending := presented (.new m :: is) ++ rest } = .next t →
    ∃ t', runSteps (is.length + 1) { s' with pending := presented (.new m :: is) ++ rest' } = .next t' ∧
      t'.mode = t.mode ∧ t'.h = t.h ∧ t'.N = t.N ∧ t'.sigma = t.sigma ∧
      ∃ out, t.responses = s.responses ++ out ∧ t'.responses = s'.responses ++ out

/-- R133: after NEW m and ABSORB b the registers are a function of (m, b), and MODE enters only through iv(MODE) in h. -/
def Obligations.ModeEntersThroughIv : Prop :=
  ∀ (m : Mode) (b : Block) (s : State),
    ∃ t u, exec (.new m) s = .next t ∧ exec (.absorb b) t = .next u ∧
      u.h = compress b 0 (iv m) false ∧ u.N = blk 512 ∧ u.sigma = b

/-- The invariant that every step keeps, from every state that meets it: N counts the bits of whole bytes (R22), an engine
that was never constructed has delivered nothing (R142), and every digest is a selection from its DOUT (R127). -/
def Obligations.StepKeepsInvariant : Prop :=
  ∀ s t : State, Inv s → step s = .next t → Inv t

/-- The state after reset meets the invariant, whatever its registers hold (log entry 1). -/
def Obligations.ResetMeetsInvariant : Prop :=
  Inv State.reset

/-- R164 to R168: a host that keeps the contract is never refused, from whatever state the engine was in. -/
def Obligations.ContractIsNeverRefused : Prop :=
  ∀ (is : List Instr) (rest : List HostInput) (s : State), keepsContract .unconstructed is = true →
    ∃ t, runSteps is.length { s with pending := presented is ++ rest } = .next t ∧ t.pending = rest

/-! ### Messages -/

/-- R129, first part (derived there): after NEW, or RESET on a constructed engine, and k ABSORBs, N is 512·k and Σ the sum of
the blocks, modulo 2^512. -/
def Obligations.LengthAndSumWhileAbsorbing : Prop :=
  ∀ (ms : List Block) (rest : List HostInput) (s : State) (start : Instr),
    ((∃ m, start = .new m) ∨ (start = .reset ∧ s.constructed = true)) →
    ∃ t, runSteps (ms.length + 1) { s with pending := presented (start :: ms.map .absorb) ++ rest } = .next t ∧
      t.pending = rest ∧ t.N.toNat = 512 * ms.length % 2 ^ 512 ∧ t.sigma.toNat = sumOf ms % 2 ^ 512

/-- R130 (derived there): the chaining value after NEW m and the blocks m_1 … m_k. -/
def Obligations.ChainingValueAfterBlocks : Prop :=
  ∀ (m : Mode) (ms : List Block) (rest : List HostInput) (s : State),
    ∃ t, runSteps (ms.length + 1) { s with pending := presented (.new m :: ms.map .absorb) ++ rest } = .next t ∧
      t.mode = m ∧ t.h = chainFrom 0 (iv m) ms ∧ t.responses = s.responses

/-- R129, last part, and R126 (derived there, with the spec's decision D14): NEW m and ONE_SHOT of a byte string, from any
state, deliver the Streebog block of the string and the digest MODE selects, and leave its length in bits in N and the sum
of its blocks and pad in Σ. -/
def Obligations.OneShotDeliversStreebog : Prop :=
  ∀ (m : Mode) (bytes : List Byte) (rest : List HostInput) (s : State),
    ∃ t, runSteps ((expandOneShot bytes).length + 1)
        { s with pending := presented (.new m :: expandOneShot bytes) ++ rest } = .next t ∧
      t.pending = rest ∧ t.mode = m ∧ t.h = streebogBlock m bytes ∧
      t.responses = s.responses ++
        [{ dout := streebogBlock m bytes, digest := digestBytes m (streebogBlock m bytes) }] ∧
      t.N.toNat = 8 * bytes.length % 2 ^ 512 ∧
      t.sigma.toNat = (sumOf (wholeBlocks bytes) + (padOf bytes).toNat) % 2 ^ 512

/-- R134 (read with the rules): Σ and N do not depend on the order of the blocks. -/
def Obligations.SumIgnoresBlockOrder : Prop :=
  ∀ (m : Mode) (ms ms' : List Block) (rest : List HostInput) (s : State), ms.Perm ms' →
    ∃ t t', runSteps (ms.length + 1) { s with pending := presented (.new m :: ms.map .absorb) ++ rest } = .next t ∧
      runSteps (ms'.length + 1) { s with pending := presented (.new m :: ms'.map .absorb) ++ rest } = .next t' ∧
      t.sigma = t'.sigma ∧ t.N = t'.N

/-- R134: for whole blocks, UPDATE then FINALIZE 0 is the expansion of ONE_SHOT. -/
def Obligations.EmptyTailEndsWholeBlocks : Prop :=
  ∀ bytes : List Byte, bytes.length % 64 = 0 →
    ∃ is, expandUpdate bytes = some is ∧ expandOneShot bytes = is ++ [.finalize 0 (messageBlock [] 0)]

/-- R135 (derived there): a RESET after NEW changes nothing that follows. -/
def Obligations.ResetRoundTrip : Prop :=
  ∀ (m : Mode) (is : List Instr) (rest : List HostInput) (s : State),
    runSteps (is.length + 2) { s with pending := presented (.new m :: .reset :: is) ++ rest } =
      runSteps (is.length + 1) { s with pending := presented (.new m :: is) ++ rest }

/-- R136 (derived there): splitting a message at a block boundary gives the same command sequence. -/
def Obligations.OneShotIsIncremental : Prop :=
  ∀ (bytes : List Byte) (s : Nat), s % 64 = 0 → s ≤ bytes.length - bytes.length % 64 →
    ∃ is, expandUpdate (bytes.take s) = some is ∧ is ++ expandOneShot (bytes.drop s) = expandOneShot bytes

/-- R72, R125 (refusing other lengths is the spec's decision D13): UPDATE of whole blocks is one ABSORB a block in message
order, two in a row are one of the concatenation, none for no bytes, and no expansion where the length is not a multiple. -/
def Obligations.UpdateExpandsToAbsorbs : Prop :=
  (∀ bytes : List Byte, bytes.length % 64 = 0 →
    ∃ is, expandUpdate bytes = some is ∧ is.length = bytes.length / 64 ∧
      ∀ n < bytes.length / 64, ∃ b, is[n]? = some (.absorb b) ∧
        ∀ j < 64, some (blockByte b j) = bytes[64 * n + j]?) ∧
  (∀ bytes : List Byte, bytes.length % 64 ≠ 0 → expandUpdate bytes = none) ∧
  expandUpdate [] = some [] ∧
  (∀ a b is js, expandUpdate a = some is → expandUpdate b = some js → expandUpdate (a ++ b) = some (is ++ js))

/-- R46, R65, R73: ONE_SHOT's tail is what is left after the whole blocks, fewer than 64 bytes, and a longer tail has no
FINALIZE. -/
def Obligations.TailIsShorterThanBlock : Prop :=
  (∀ tail : List Byte, 64 ≤ tail.length → expandFinalize tail = none) ∧
  (∀ tail : List Byte, tail.length < 64 →
    ∃ r din, expandFinalize tail = some (.finalize r din) ∧ r.toNat = tail.length ∧
      ∀ n < tail.length, some (blockByte din n) = tail[n]?) ∧
  (∀ bytes : List Byte, ∃ is last, expandOneShot bytes = is ++ [last] ∧
    is.length = bytes.length / 64 ∧
    expandFinalize (bytes.drop (bytes.length - bytes.length % 64)) = some last)

/-! ### Several engines -/

/-- R53: an engine's commands neither read nor write another engine's state; what a schedule leaves in engine k is what
engine k alone computes in as many steps. -/
def Obligations.EnginesDoNotInteract : Prop :=
  ∀ (schedule : List Nat) (es es' : List State), runSchedule schedule es = .next es' →
    es'.length = es.length ∧
    ∀ k s, es[k]? = some s →
      ∃ t, es'[k]? = some t ∧ runSteps (schedule.count k) s = .next t

/-- R149: any interleaving of engines that can each take their own steps completes, and all interleavings agree. -/
def Obligations.InterleavingsComplete : Prop :=
  ∀ (schedule schedule' : List Nat) (es : List State), schedule.Perm schedule' →
    (∀ k ∈ schedule, k < es.length) →
    (∀ k s, es[k]? = some s → ∃ t, runSteps (schedule.count k) s = .next t) →
    ∃ es', runSchedule schedule es = .next es' ∧ runSchedule schedule' es = .next es'
end

