-- ==== Sys2Proof/Laws/Bits.lean ====
section
/-! SUPPORT. How the lanes and bytes of a block behave under the functions of Machine/Bits.lean, once for each function. -/

namespace Sys2Proof.Machine

/-- Bit i of the joined pieces is bit i mod w of piece i / w, and 0 above the last piece. -/
theorem getLsbD_joinPieces {w : Nat} (f : Nat → BitVec w) (n i : Nat) (hw : 0 < w) (hn : w * n ≤ 512) :
    (joinPieces f n).getLsbD i = if i < w * n then (f (i / w)).getLsbD (i % w) else false := by
  induction n with
  | zero => simp [joinPieces]
  | succ n ih =>
    have hmul : w * (n + 1) = w * n + w := Nat.mul_succ w n
    simp only [joinPieces, BitVec.getLsbD_or, BitVec.getLsbD_shiftLeft, BitVec.getLsbD_setWidth, ih (by omega)]
    by_cases h : i < w * n
    · have : i < w * (n + 1) := by omega
      simp [h, this]
    · by_cases h' : i < w * (n + 1)
      · have hdiv : i / w = n := by
          rw [Nat.div_eq_iff hw]; constructor <;> [skip; skip] <;> (rw [Nat.mul_comm n w]; omega)
        have hmod : i % w = i - w * n := by
          have := Nat.div_add_mod i w; rw [hdiv] at this; omega
        have h1 : i < 512 := by omega
        have h2 : i - w * n < 512 := by omega
        simp [h, h', hdiv, hmod, h1, h2]
      · have : (f n).getLsbD (i - w * n) = false := BitVec.getLsbD_of_ge _ _ (by omega)
        simp [h, h', this]

theorem getLsbD_lane (x : Block) (k i : Nat) : (lane x k).getLsbD i = (decide (i < 64) && x.getLsbD (64 * k + i)) := by
  simp [lane]

theorem getLsbD_blockByte (x : Block) (n i : Nat) :
    (blockByte x n).getLsbD i = (decide (i < 8) && x.getLsbD (8 * n + i)) := by
  simp [blockByte]

theorem getLsbD_laneByte (w : Lane) (p i : Nat) :
    (laneByte w p).getLsbD i = (decide (i < 8) && w.getLsbD (8 * p + i)) := by
  simp [laneByte]

/-- Two bytes with the same bits are the same. -/
theorem bitVec_ext {w : Nat} {x y : BitVec w} (h : ∀ i < w, x.getLsbD i = y.getLsbD i) : x = y :=
  BitVec.eq_of_getLsbD_eq h

/-- Lane k of the block with the given lanes. -/
@[simp] theorem lane_ofLanes (f : Nat → Lane) (k : Nat) (hk : k < 8) : lane (ofLanes f) k = f k := by
  refine bitVec_ext fun i hi => ?_
  rw [getLsbD_lane, ofLanes, getLsbD_joinPieces f 8 _ (by omega) (by omega)]
  have h1 : (64 * k + i) / 64 = k := by omega
  have h2 : (64 * k + i) % 64 = i := by omega
  have h3 : 64 * k + i < 512 := by omega
  simp [hi, h1, h2, h3]

/-- Byte n of the block with the given bytes. -/
@[simp] theorem blockByte_ofBytes (f : Nat → Byte) (n : Nat) (hn : n < 64) : blockByte (ofBytes f) n = f n := by
  refine bitVec_ext fun i hi => ?_
  rw [getLsbD_blockByte, ofBytes, getLsbD_joinPieces f 64 _ (by omega) (by omega)]
  have h1 : (8 * n + i) / 8 = n := by omega
  have h2 : (8 * n + i) % 8 = i := by omega
  have h3 : 8 * n + i < 512 := by omega
  simp [hi, h1, h2, h3]

/-- Byte p of lane k is byte 8k+p of the block (R7). -/
theorem laneByte_lane (x : Block) (k p : Nat) (hp : p < 8) : laneByte (lane x k) p = blockByte x (8 * k + p) := by
  refine bitVec_ext fun i hi => ?_
  rw [getLsbD_laneByte, getLsbD_lane, getLsbD_blockByte]
  have h1 : 8 * p + i < 64 := by omega
  have h2 : 64 * k + (8 * p + i) = 8 * (8 * k + p) + i := by omega
  simp [h1, h2]

/-- A block is its eight lanes. -/
theorem block_ext_lanes {x y : Block} (h : ∀ k < 8, lane x k = lane y k) : x = y := by
  refine bitVec_ext fun i hi => ?_
  have hk := congrArg (fun v => v.getLsbD (i % 64)) (h (i / 64) (by omega))
  have h1 : i % 64 < 64 := by omega
  have h2 : 64 * (i / 64) + i % 64 = i := by omega
  simp only [getLsbD_lane, h1, h2, decide_true, Bool.true_and] at hk
  exact hk

/-- A block is its 64 bytes. -/
theorem block_ext_bytes {x y : Block} (h : ∀ n < 64, blockByte x n = blockByte y n) : x = y := by
  refine bitVec_ext fun i hi => ?_
  have hn := congrArg (fun v => v.getLsbD (i % 8)) (h (i / 8) (by omega))
  have h1 : i % 8 < 8 := by omega
  have h2 : 8 * (i / 8) + i % 8 = i := by omega
  simp only [getLsbD_blockByte, h1, h2, decide_true, Bool.true_and] at hn
  exact hn

/-- A lane is its eight bytes. -/
theorem lane_ext_bytes {x y : Lane} (h : ∀ p < 8, laneByte x p = laneByte y p) : x = y := by
  refine bitVec_ext fun i hi => ?_
  have hp := congrArg (fun v => v.getLsbD (i % 8)) (h (i / 8) (by omega))
  have h1 : i % 8 < 8 := by omega
  have h2 : 8 * (i / 8) + i % 8 = i := by omega
  simp only [getLsbD_laneByte, h1, h2, decide_true, Bool.true_and] at hp
  exact hp

@[simp] theorem lane_xor (x y : Block) (k : Nat) : lane (x ^^^ y) k = lane x k ^^^ lane y k := by
  refine bitVec_ext fun i hi => ?_
  simp only [getLsbD_lane, BitVec.getLsbD_xor, hi, decide_true, Bool.true_and]

@[simp] theorem lane_zero (k : Nat) : lane 0 k = 0 := by
  refine bitVec_ext fun i hi => ?_
  simp [getLsbD_lane]

@[simp] theorem blockByte_xor (x y : Block) (n : Nat) : blockByte (x ^^^ y) n = blockByte x n ^^^ blockByte y n := by
  refine bitVec_ext fun i hi => ?_
  simp only [getLsbD_blockByte, BitVec.getLsbD_xor, hi, decide_true, Bool.true_and]

@[simp] theorem laneByte_xor (x y : Lane) (p : Nat) : laneByte (x ^^^ y) p = laneByte x p ^^^ laneByte y p := by
  refine bitVec_ext fun i hi => ?_
  simp only [getLsbD_laneByte, BitVec.getLsbD_xor, hi, decide_true, Bool.true_and]

/-- The lane-wise xor512 is exclusive or on the 512 bits. -/
theorem xor512_eq_xor (l r : Block) : xor512 l r = l ^^^ r :=
  block_ext_lanes fun k hk => by simp [xor512, hk]

/-- The lanes of LPSX by the table, with the bytes taken from the block. -/
theorem lane_lpsx (l r : Block) (j : Nat) (hj : j < 8) :
    lane (lpsx l r) j = xorOver (fun i => tableT i (blockByte (l ^^^ r) (8 * i + j))) 8 := by
  rw [lpsx, lane_ofLanes _ _ hj]
  simp only [laneByte_xor, blockByte_xor, laneByte_lane _ _ _ hj]

/-- The exclusive or of a sum of two families. -/
theorem xorOver_xor (f g : Nat → Lane) (n : Nat) : xorOver (fun i => f i ^^^ g i) n = xorOver f n ^^^ xorOver g n := by
  induction n with
  | zero => simp [xorOver]
  | succ n ih => simp only [xorOver, ih]; ac_rfl

/-- Families that agree below n have the same exclusive or. -/
theorem xorOver_congr {f g : Nat → Lane} {n : Nat} (h : ∀ i < n, f i = g i) : xorOver f n = xorOver g n := by
  induction n with
  | zero => rfl
  | succ n ih => rw [xorOver, xorOver, ih fun i hi => h i (by omega), h n (by omega)]

/-- A family that is 0 below n has exclusive or 0. -/
theorem xorOver_zero {f : Nat → Lane} {n : Nat} (h : ∀ i < n, f i = 0) : xorOver f n = 0 := by
  induction n with
  | zero => rfl
  | succ n ih => rw [xorOver, ih fun i hi => h i (by omega), h n (by omega)]; simp

/-- The exclusive or over a range in two parts. -/
theorem xorOver_add (f : Nat → Lane) (m n : Nat) : xorOver f (m + n) = xorOver f m ^^^ xorOver (fun i => f (m + i)) n := by
  induction n with
  | zero => simp [xorOver]
  | succ n ih => rw [← Nat.add_assoc, xorOver, ih, xorOver, BitVec.xor_assoc]

/-- Reading word j of a space gives the word that was listed there (R9, R47). -/
theorem memRead_spaceOf {n : Nat} (words : List (BitVec (8 * n))) (j : Nat) :
    memRead (spaceOf words) (n * j) n = (words.getD j 0).toNat := by
  induction words generalizing j with
  | nil => simp [spaceOf, memRead]
  | cons x xs ih =>
    have hlt := x.isLt
    have hcons : spaceOf (x :: xs) = spaceOf xs * 2 ^ (8 * n) + x.toNat := by
      simp [spaceOf, Nat.shiftLeft_eq]
    cases j with
    | zero =>
      simp only [memRead, hcons, Nat.mul_zero, Nat.shiftRight_zero, List.getD_cons_zero]
      rw [Nat.mul_comm, Nat.mul_add_mod, Nat.mod_eq_of_lt hlt]
    | succ j =>
      rw [List.getD_cons_succ, ← ih j]
      simp only [memRead, hcons]
      have : 8 * (n * (j + 1)) = 8 * n + 8 * (n * j) := by rw [Nat.mul_succ]; omega
      rw [this, Nat.shiftRight_add, Nat.shiftRight_eq_div_pow _ (8 * n), Nat.mul_comm (spaceOf xs),
        Nat.mul_add_div (Nat.two_pow_pos _), Nat.div_eq_of_lt hlt, Nat.add_zero]

/-- π[b] is entry b of the table R80 prints. -/
theorem sbox_eq (b : Byte) : sbox b = (piLow ++ piHigh).getD b.toNat 0 := by
  have h := memRead_spaceOf (n := 1) (piLow ++ piHigh) b.toNat
  rw [Nat.one_mul] at h
  rw [sbox, spacePI, h]; simp

/-- A[j] is row j of the table R81 prints. -/
theorem rowA_eq (j : Nat) : rowA j = matrixA.getD j 0 := by
  have h := memRead_spaceOf (n := 8) matrixA j
  rw [rowA, spaceA, h]; simp

/-- C_i[k] is word 8(i-1)+k of the table R82 prints. -/
theorem roundLane_eq (i k : Nat) : roundLane i k = roundWords.getD (8 * (i - 1) + k) 0 := by
  have h := memRead_spaceOf (n := 8) roundWords (8 * (i - 1) + k)
  rw [roundLane, spaceC, h]; simp

end Sys2Proof.Machine
end

