-- ==== Sys2Proof/Laws/PerInstr.lean ====
section
/-! SUPPORT. Facts about every command, one lemma per constructor of Instr. -/

namespace Sys2Proof.Laws.EncodesWellFormed

open Sys2Proof Sys2Proof.Machine

/-- The encoder gives a command word that the field layout R61 accepts and R68 does not list as reserved. -/
def Statement (i : Instr) : Prop := (encode i).wellFormed = true

theorem new (m : Mode) : Statement (.new m) := by
  have h : ∀ b : BitVec 1, wellFormedCmd (cmdWord 0x1 (0#7 ++ b)) = true := by decide
  exact h (modeBit m)

theorem reset : Statement .reset := by
  have h : wellFormedCmd (cmdWord 0x2 0) = true := by decide
  exact h

theorem absorb (m : Block) : Statement (.absorb m) := by
  have h : wellFormedCmd (cmdWord 0x3 0) = true := by decide
  exact h

theorem finalize (r : BitVec 6) (din : Block) : Statement (.finalize r din) := by
  have h : ∀ r : BitVec 6, wellFormedCmd (cmdWord 0x4 (0#2 ++ r)) = true := by decide
  exact h r

end Sys2Proof.Laws.EncodesWellFormed
end

