-- ==== Sys2Proof/Laws/State.lean ====
section
/-! SUPPORT. One lemma per field per update of the state, true by rfl, so that no later proof unfolds a record update. -/

namespace Sys2Proof.Machine

@[simp] theorem State.setMode_mode (s : State) (m : Mode) : (s.setMode m).mode = m := rfl
@[simp] theorem State.setMode_h (s : State) (m : Mode) : (s.setMode m).h = s.h := rfl
@[simp] theorem State.setMode_N (s : State) (m : Mode) : (s.setMode m).N = s.N := rfl
@[simp] theorem State.setMode_sigma (s : State) (m : Mode) : (s.setMode m).sigma = s.sigma := rfl
@[simp] theorem State.setMode_constructed (s : State) (m : Mode) : (s.setMode m).constructed = s.constructed := rfl
@[simp] theorem State.setMode_pending (s : State) (m : Mode) : (s.setMode m).pending = s.pending := rfl
@[simp] theorem State.setMode_responses (s : State) (m : Mode) : (s.setMode m).responses = s.responses := rfl
@[simp] theorem State.setMode_resets (s : State) (m : Mode) : (s.setMode m).resets = s.resets := rfl

@[simp] theorem State.setH_mode (s : State) (x : Block) : (s.setH x).mode = s.mode := rfl
@[simp] theorem State.setH_h (s : State) (x : Block) : (s.setH x).h = x := rfl
@[simp] theorem State.setH_N (s : State) (x : Block) : (s.setH x).N = s.N := rfl
@[simp] theorem State.setH_sigma (s : State) (x : Block) : (s.setH x).sigma = s.sigma := rfl
@[simp] theorem State.setH_constructed (s : State) (x : Block) : (s.setH x).constructed = s.constructed := rfl
@[simp] theorem State.setH_pending (s : State) (x : Block) : (s.setH x).pending = s.pending := rfl
@[simp] theorem State.setH_responses (s : State) (x : Block) : (s.setH x).responses = s.responses := rfl
@[simp] theorem State.setH_resets (s : State) (x : Block) : (s.setH x).resets = s.resets := rfl

@[simp] theorem State.setN_mode (s : State) (x : Block) : (s.setN x).mode = s.mode := rfl
@[simp] theorem State.setN_h (s : State) (x : Block) : (s.setN x).h = s.h := rfl
@[simp] theorem State.setN_N (s : State) (x : Block) : (s.setN x).N = x := rfl
@[simp] theorem State.setN_sigma (s : State) (x : Block) : (s.setN x).sigma = s.sigma := rfl
@[simp] theorem State.setN_constructed (s : State) (x : Block) : (s.setN x).constructed = s.constructed := rfl
@[simp] theorem State.setN_pending (s : State) (x : Block) : (s.setN x).pending = s.pending := rfl
@[simp] theorem State.setN_responses (s : State) (x : Block) : (s.setN x).responses = s.responses := rfl
@[simp] theorem State.setN_resets (s : State) (x : Block) : (s.setN x).resets = s.resets := rfl

@[simp] theorem State.setSigma_mode (s : State) (x : Block) : (s.setSigma x).mode = s.mode := rfl
@[simp] theorem State.setSigma_h (s : State) (x : Block) : (s.setSigma x).h = s.h := rfl
@[simp] theorem State.setSigma_N (s : State) (x : Block) : (s.setSigma x).N = s.N := rfl
@[simp] theorem State.setSigma_sigma (s : State) (x : Block) : (s.setSigma x).sigma = x := rfl
@[simp] theorem State.setSigma_constructed (s : State) (x : Block) : (s.setSigma x).constructed = s.constructed := rfl
@[simp] theorem State.setSigma_pending (s : State) (x : Block) : (s.setSigma x).pending = s.pending := rfl
@[simp] theorem State.setSigma_responses (s : State) (x : Block) : (s.setSigma x).responses = s.responses := rfl
@[simp] theorem State.setSigma_resets (s : State) (x : Block) : (s.setSigma x).resets = s.resets := rfl

@[simp] theorem State.setConstructed_mode (s : State) : s.setConstructed.mode = s.mode := rfl
@[simp] theorem State.setConstructed_h (s : State) : s.setConstructed.h = s.h := rfl
@[simp] theorem State.setConstructed_N (s : State) : s.setConstructed.N = s.N := rfl
@[simp] theorem State.setConstructed_sigma (s : State) : s.setConstructed.sigma = s.sigma := rfl
@[simp] theorem State.setConstructed_constructed (s : State) : s.setConstructed.constructed = true := rfl
@[simp] theorem State.setConstructed_pending (s : State) : s.setConstructed.pending = s.pending := rfl
@[simp] theorem State.setConstructed_responses (s : State) : s.setConstructed.responses = s.responses := rfl
@[simp] theorem State.setConstructed_resets (s : State) : s.setConstructed.resets = s.resets := rfl

@[simp] theorem State.setPending_mode (s : State) (is : List HostInput) : (s.setPending is).mode = s.mode := rfl
@[simp] theorem State.setPending_h (s : State) (is : List HostInput) : (s.setPending is).h = s.h := rfl
@[simp] theorem State.setPending_N (s : State) (is : List HostInput) : (s.setPending is).N = s.N := rfl
@[simp] theorem State.setPending_sigma (s : State) (is : List HostInput) : (s.setPending is).sigma = s.sigma := rfl
@[simp] theorem State.setPending_constructed (s : State) (is : List HostInput) : (s.setPending is).constructed = s.constructed := rfl
@[simp] theorem State.setPending_pending (s : State) (is : List HostInput) : (s.setPending is).pending = is := rfl
@[simp] theorem State.setPending_responses (s : State) (is : List HostInput) : (s.setPending is).responses = s.responses := rfl
@[simp] theorem State.setPending_resets (s : State) (is : List HostInput) : (s.setPending is).resets = s.resets := rfl

@[simp] theorem State.respond_mode (s : State) (d : Block) : (s.respond d).mode = s.mode := rfl
@[simp] theorem State.respond_h (s : State) (d : Block) : (s.respond d).h = s.h := rfl
@[simp] theorem State.respond_N (s : State) (d : Block) : (s.respond d).N = s.N := rfl
@[simp] theorem State.respond_sigma (s : State) (d : Block) : (s.respond d).sigma = s.sigma := rfl
@[simp] theorem State.respond_constructed (s : State) (d : Block) : (s.respond d).constructed = s.constructed := rfl
@[simp] theorem State.respond_pending (s : State) (d : Block) : (s.respond d).pending = s.pending := rfl
@[simp] theorem State.respond_responses (s : State) (d : Block) : (s.respond d).responses = s.responses ++ [{ dout := d, digest := digestBytes s.mode d }] := rfl
@[simp] theorem State.respond_resets (s : State) (d : Block) : (s.respond d).resets = s.resets := rfl

@[simp] theorem State.issue_mode (s : State) (t : Transaction) : (s.issue t).mode = s.mode := rfl
@[simp] theorem State.issue_h (s : State) (t : Transaction) : (s.issue t).h = s.h := rfl
@[simp] theorem State.issue_N (s : State) (t : Transaction) : (s.issue t).N = s.N := rfl
@[simp] theorem State.issue_sigma (s : State) (t : Transaction) : (s.issue t).sigma = s.sigma := rfl
@[simp] theorem State.issue_constructed (s : State) (t : Transaction) : (s.issue t).constructed = s.constructed := rfl
@[simp] theorem State.issue_pending (s : State) (t : Transaction) : (s.issue t).pending = .command t :: s.pending := rfl
@[simp] theorem State.issue_responses (s : State) (t : Transaction) : (s.issue t).responses = s.responses := rfl
@[simp] theorem State.issue_resets (s : State) (t : Transaction) : (s.issue t).resets = s.resets := rfl

@[simp] theorem hardwareReset_mode (s : State) : (hardwareReset s).mode = Config.resetMode (s.resets + 1) := rfl
@[simp] theorem hardwareReset_h (s : State) : (hardwareReset s).h = Config.resetH (s.resets + 1) := rfl
@[simp] theorem hardwareReset_N (s : State) : (hardwareReset s).N = Config.resetN (s.resets + 1) := rfl
@[simp] theorem hardwareReset_sigma (s : State) : (hardwareReset s).sigma = Config.resetSigma (s.resets + 1) := rfl
@[simp] theorem hardwareReset_constructed (s : State) : (hardwareReset s).constructed = false := rfl
@[simp] theorem hardwareReset_pending (s : State) : (hardwareReset s).pending = s.pending := rfl
@[simp] theorem hardwareReset_responses (s : State) : (hardwareReset s).responses = [] := rfl
@[simp] theorem hardwareReset_resets (s : State) : (hardwareReset s).resets = s.resets + 1 := rfl

@[simp] theorem initialise_mode (m : Mode) (s : State) : (initialise m s).mode = s.mode := rfl
@[simp] theorem initialise_h (m : Mode) (s : State) : (initialise m s).h = iv m := rfl
@[simp] theorem initialise_N (m : Mode) (s : State) : (initialise m s).N = 0 := rfl
@[simp] theorem initialise_sigma (m : Mode) (s : State) : (initialise m s).sigma = 0 := rfl
@[simp] theorem initialise_constructed (m : Mode) (s : State) : (initialise m s).constructed = s.constructed := rfl
@[simp] theorem initialise_pending (m : Mode) (s : State) : (initialise m s).pending = s.pending := rfl
@[simp] theorem initialise_responses (m : Mode) (s : State) : (initialise m s).responses = s.responses := rfl
@[simp] theorem initialise_resets (m : Mode) (s : State) : (initialise m s).resets = s.resets := rfl

@[simp] theorem absorbBlock_mode (m : Block) (s : State) : (absorbBlock m s).mode = s.mode := rfl
@[simp] theorem absorbBlock_h (m : Block) (s : State) : (absorbBlock m s).h = compress m s.N s.h false := rfl
@[simp] theorem absorbBlock_N (m : Block) (s : State) : (absorbBlock m s).N = add512le s.N (blk 512) := rfl
@[simp] theorem absorbBlock_sigma (m : Block) (s : State) : (absorbBlock m s).sigma = add512le s.sigma m := rfl
@[simp] theorem absorbBlock_constructed (m : Block) (s : State) : (absorbBlock m s).constructed = s.constructed := rfl
@[simp] theorem absorbBlock_pending (m : Block) (s : State) : (absorbBlock m s).pending = s.pending := rfl
@[simp] theorem absorbBlock_responses (m : Block) (s : State) : (absorbBlock m s).responses = s.responses := rfl
@[simp] theorem absorbBlock_resets (m : Block) (s : State) : (absorbBlock m s).resets = s.resets := rfl

/-- The h that FINALIZE leaves (R123 steps 2, 4 and 5), in one expression over the state before the command. -/
theorem finalizeTail_h (r : BitVec 6) (din : Block) (s : State) :
    (finalizeTail r din s).h =
      compress (add512le s.sigma (mkpad din r)) 0
        (compress (add512le s.N (blk (8 * r.toNat))) 0 (compress (mkpad din r) s.N s.h false) true) true := rfl

@[simp] theorem finalizeTail_mode (r : BitVec 6) (din : Block) (s : State) :
    (finalizeTail r din s).mode = s.mode := rfl
@[simp] theorem finalizeTail_N (r : BitVec 6) (din : Block) (s : State) :
    (finalizeTail r din s).N = add512le s.N (blk (8 * r.toNat)) := rfl
@[simp] theorem finalizeTail_sigma (r : BitVec 6) (din : Block) (s : State) :
    (finalizeTail r din s).sigma = add512le s.sigma (mkpad din r) := rfl
@[simp] theorem finalizeTail_constructed (r : BitVec 6) (din : Block) (s : State) :
    (finalizeTail r din s).constructed = s.constructed := rfl
@[simp] theorem finalizeTail_pending (r : BitVec 6) (din : Block) (s : State) :
    (finalizeTail r din s).pending = s.pending := rfl
@[simp] theorem finalizeTail_resets (r : BitVec 6) (din : Block) (s : State) :
    (finalizeTail r din s).resets = s.resets := rfl

/-- FINALIZE delivers the h it leaves, once (R127, R128). -/
@[simp] theorem finalizeTail_responses (r : BitVec 6) (din : Block) (s : State) :
    (finalizeTail r din s).responses =
      s.responses ++ [{ dout := (finalizeTail r din s).h, digest := digestBytes s.mode (finalizeTail r din s).h }] := rfl

end Sys2Proof.Machine
end

