-- ==== Sys2Proof/Laws/Step.lean ====
section
/-! SUPPORT. What each shared operation, each command and one step can do, said once: proofs cite these and do not unfold. -/

namespace Sys2Proof.Machine

/-- An operation under the check answers a next state exactly on a constructed engine, and then the one it was given. -/
theorem whenConstructed_next {s t u : State} : whenConstructed s t = .next u ↔ s.constructed = true ∧ u = t := by
  cases h : s.constructed <;> simp [whenConstructed, h, eq_comm]

theorem whenConstructed_of_constructed {s : State} (t : State) (h : s.constructed = true) :
    whenConstructed s t = .next t := whenConstructed_next.2 ⟨h, rfl⟩

theorem whenConstructed_of_not {s : State} (t : State) (h : s.constructed = false) :
    whenConstructed s t = .refused .notConstructed := by
  simp [whenConstructed, h]

/-- NEW answers a next state always. -/
theorem exec_new (m : Mode) (s : State) : exec (.new m) s = .next (initialise m (s.setMode m)).setConstructed := rfl

/-- RESET, ABSORB and FINALIZE answer a next state exactly on a constructed engine. -/
theorem exec_reset_next {s t : State} :
    exec .reset s = .next t ↔ s.constructed = true ∧ t = initialise s.mode s := whenConstructed_next

theorem exec_absorb_next {m : Block} {s t : State} :
    exec (.absorb m) s = .next t ↔ s.constructed = true ∧ t = absorbBlock m s := whenConstructed_next

theorem exec_finalize_next {r : BitVec 6} {din : Block} {s t : State} :
    exec (.finalize r din) s = .next t ↔ s.constructed = true ∧ t = finalizeTail r din s := whenConstructed_next

/-- Everything a command can do that answers a next state. -/
theorem exec_cases {i : Instr} {s t : State} (h : exec i s = .next t) :
    (∃ m, i = .new m ∧ t = (initialise m (s.setMode m)).setConstructed) ∨
    (i = .reset ∧ s.constructed = true ∧ t = initialise s.mode s) ∨
    (∃ m, i = .absorb m ∧ s.constructed = true ∧ t = absorbBlock m s) ∨
    (∃ r din, i = .finalize r din ∧ s.constructed = true ∧ t = finalizeTail r din s) := by
  cases i with
  | new m => rw [exec_new, Host.Outcome.next.injEq] at h; exact .inl ⟨m, rfl, h.symm⟩
  | reset => exact .inr (.inl ⟨rfl, exec_reset_next.1 h⟩)
  | absorb m => exact .inr (.inr (.inl ⟨m, rfl, exec_absorb_next.1 h⟩))
  | finalize r din => exact .inr (.inr (.inr ⟨r, din, rfl, exec_finalize_next.1 h⟩))

/-- A step on a command that decodes. -/
theorem step_command {s : State} {c : Transaction} {rest : List HostInput} {i : Instr}
    (hp : s.pending = .command c :: rest) (hd : decode c = .ok i) : step s = exec i (s.setPending rest) := by
  simp [step, fetch, hp, hd]

/-- A step on a reserved command word. -/
theorem step_reserved {s : State} {c : Transaction} {rest : List HostInput} {why : Reserved}
    (hp : s.pending = .command c :: rest) (hd : decode c = .error why) : step s = .refused (.reservedCommand why) := by
  simp [step, fetch, hp, hd]

/-- A step on hardware reset. -/
theorem step_hardwareReset {s : State} {rest : List HostInput} (hp : s.pending = .hardwareReset :: rest) :
    step s = .next (hardwareReset (s.setPending rest)) := by
  simp [step, fetch, hp]

/-- A step when the host does nothing. -/
theorem step_noCommand {s : State} (hp : s.pending = []) : step s = .refused .noCommand := by
  simp [step, fetch, hp]

/-- Everything one step can do that answers a next state: hardware reset, or a command that decodes and executes. -/
theorem step_cases {s t : State} (h : step s = .next t) :
    (∃ rest, s.pending = .hardwareReset :: rest ∧ t = hardwareReset (s.setPending rest)) ∨
    (∃ c rest i, s.pending = .command c :: rest ∧ decode c = .ok i ∧ exec i (s.setPending rest) = .next t) := by
  match hp : s.pending with
  | [] => rw [step_noCommand hp] at h; cases h
  | .hardwareReset :: rest =>
    rw [step_hardwareReset hp, Host.Outcome.next.injEq] at h
    exact .inl ⟨rest, rfl, h.symm⟩
  | .command c :: rest =>
    match hd : decode c with
    | .ok i => exact .inr ⟨c, rest, i, rfl, hd, (step_command hp hd).symm.trans h⟩
    | .error why => rw [step_reserved hp hd] at h; cases h

/-- No steps. -/
@[simp] theorem runSteps_zero (s : State) : runSteps 0 s = .next s := rfl

/-- k + 1 steps, by what the first one answers. -/
theorem runSteps_succ (k : Nat) (s : State) :
    runSteps (k + 1) s =
      match step s with
      | .next t => runSteps k t
      | .fault r => .fault r
      | .refused r => .refused r := by
  cases h : step s <;>
    exact (Host.Core.run.eq_2 core s k).trans (by rw [show core.step s = _ from h]; rfl)

/-- k + 1 steps whose first is taken. -/
theorem runSteps_of_step {s t : State} (k : Nat) (h : step s = .next t) : runSteps (k + 1) s = runSteps k t := by
  rw [runSteps_succ, h]

/-- A run that is completed, in two parts. -/
theorem runSteps_add {s t : State} (j k : Nat) (h : runSteps j s = .next t) : runSteps (j + k) s = runSteps k t := by
  induction j generalizing s with
  | zero => rw [runSteps_zero, Host.Outcome.next.injEq] at h; rw [Nat.zero_add, h]
  | succ j ih =>
    rw [Nat.succ_add, runSteps_succ]
    rw [runSteps_succ] at h
    cases hs : step s with
    | next u => rw [hs] at h; exact ih h
    | fault r => rw [hs] at h; cases h
    | refused r => rw [hs] at h; cases h

end Sys2Proof.Machine
end

