-- ==== Sys2Proof/Machine/Listing.lean ====
section
/-! DEFINITION. The assembler listing of a command (spec/30_encoding.md R70, R71). -/

namespace Sys2Proof.Machine

/-- One hexadecimal digit. -/
def hexDigit (n : Nat) : Char := Nat.digitChar (n % 16)

/-- Two digits for one byte, the high digit first (R71). -/
def hexByte (b : Byte) : List Char := [hexDigit (b.toNat / 16), hexDigit b.toNat]

/-- The first `count` bytes of a block, byte 0 first, two digits a byte (R71). -/
def hexBytes (x : Block) (count : Nat) : List Char := (List.range count).flatMap fun n => hexByte (blockByte x n)

/-- The listing line of a command (R70). A FINALIZE line shows the tail, which is all of DIN that the command reads. -/
def listing : Instr → List Char
  | .new .h256 => "NEW H256".toList
  | .new .h512 => "NEW H512".toList
  | .reset => "RESET".toList
  | .absorb m => "ABSORB ".toList ++ hexBytes m 64
  | .finalize r din =>
    if r = 0 then "FINALIZE 0".toList
    else "FINALIZE ".toList ++ Nat.toDigits 10 r.toNat ++ ", ".toList ++ hexBytes din r.toNat

end Sys2Proof.Machine
end

