-- ==== Sys2Proof/Tests/Slice0.lean ====
section
/-! SUPPORT. The model's own tests: what is refused as ill formed, one word for each command and each reserved form, vectors
of spec/95_test_vectors.md one step at a time, and a witness for the hypotheses of each statement of Certificates/Slice0. -/

namespace Sys2Proof.Machine.Tests

/-- An engine just constructed, whose host has the given inputs still to make (R35). -/
def ready (m : Mode) (inputs : List HostInput) : State :=
  { mode := m, h := iv m, N := 0, sigma := 0, constructed := true, pending := inputs, responses := [], resets := 0 }

/-- An engine that was never constructed. -/
def unready (inputs : List HostInput) : State := { ready .h256 inputs with constructed := false }

/-- A command word presented with a zero DIN. -/
def word (w : CmdWord) : HostInput := .command { cmd := w, din := 0 }

/-! ### Ill-formed terms (R68, R72, R46), each beside the nearest one that is accepted -/

theorem test_illformed_op_zero : wellFormedCmd 0x0000 = false := by decide
theorem test_illformed_op_five : wellFormedCmd 0x5000 = false ∧ wellFormedCmd 0x4000 = true := by decide
theorem test_illformed_z : wellFormedCmd 0x1101 = false ∧ wellFormedCmd 0x1001 = true := by decide
theorem test_illformed_new_arg : wellFormedCmd 0x1002 = false := by decide
theorem test_illformed_reset_arg : wellFormedCmd 0x2001 = false ∧ wellFormedCmd 0x2000 = true := by decide
theorem test_illformed_absorb_arg : wellFormedCmd 0x3001 = false ∧ wellFormedCmd 0x3000 = true := by decide
theorem test_illformed_finalize_arg :
    wellFormedCmd 0x4040 = false ∧ wellFormedCmd 0x4080 = false ∧ wellFormedCmd 0x403F = true := by decide
theorem test_illformed_transaction : Transaction.wellFormed { cmd := 0x4040, din := 0 } = false := by decide
theorem test_illformed_update :
    wellFormedUpdate (List.replicate 65 0) = false ∧ wellFormedUpdate (List.replicate 64 0) = true := by decide
theorem test_illformed_tail :
    wellFormedTail (List.replicate 64 0) = false ∧ wellFormedTail (List.replicate 63 0) = true := by decide

/-! ### Decoding and encoding: words written out from R61 (OP, Z, ARG), and the reserved rows of section 2 -/

theorem test_decode_new_h256 : decodeTableWord 16 0b0001000000000000 = some (.new .h256) := by decide
theorem test_decode_new_h512 : decodeTableWord 16 0b0001000000000001 = some (.new .h512) := by decide
theorem test_decode_reset : decodeTableWord 16 0b0010000000000000 = some .reset := by decide
theorem test_decode_absorb : decode { cmd := 0b0011000000000000, din := 0x0706050403020100 } =
    .ok (.absorb 0x0706050403020100) := by decide +kernel
theorem test_decode_finalize : decode { cmd := 0b0100000000001000, din := 0xfbe2e5f0eee3c820 } =
    .ok (.finalize 8 0xfbe2e5f0eee3c820) := by decide +kernel
theorem test_decode_finalize_63 : decodeTableWord 16 0b0100000000111111 = some (.finalize 63 0) := by decide +kernel
theorem test_decode_reserved :
    decodeTableWord 16 0x0000 = none ∧ decodeTableWord 16 0x1002 = none ∧ decodeTableWord 16 0x1101 = none ∧
    decodeTableWord 16 0x4040 = none ∧ decodeTableWord 16 0xFFFF = none := by decide
theorem test_encode_words :
    (encode (.new .h512)).cmd = 0x1001 ∧ (encode .reset).cmd = 0x2000 ∧ (encode (.absorb 0)).cmd = 0x3000 ∧
    (encode (.finalize 63 0)).cmd = 0x403F := by decide
theorem test_listing_finalize : listing (.finalize 3 0x636261) = "FINALIZE 3, 616263".toList := by decide +kernel

/-! ### Vectors of spec/95_test_vectors.md sections 3 and 4, and of spec/41_lps_table.md R97 -/

/-- The block whose byte n is n (section 3.1). -/
def x31 : Block := ofBytes fun n => BitVec.ofNat 8 n

/-- A block from its eight lanes, lane 0 first, as the spec prints one. -/
def lanes (l : List Lane) : Block := ofLanes fun k => l.getD k 0

theorem test_subS : subS x31 = lanes [0x16316ecf11ddeefc, 0x4d04c523dafac4fb, 0xba992e93dbf077e9, 0xc15fcd14bbf13617,
    0x21ef5ce25a6518f9, 0x4f8e018b423c1c81, 0xa08f6ae3ae028405, 0x1fd3d47f98ed0b06] := by decide +kernel
theorem test_permP : permP (subS x31) = lanes [0x060581f917e9fbfc, 0x0b841c183677c4ee, 0xed023c65f1f0fadd,
    0x98ae425abbdbda11, 0x7fe38be2149323cf, 0xd46a015ccd2ec56e, 0xd38f8eef5f990431, 0x1fa04f21c1ba4d16] := by
  decide +kernel
theorem test_linL : linL x31 = lanes [0xab7f3461f2ada638, 0xebac3ccdcaf16f29, 0x2bc424248215291a, 0x6b172c88ba49e00b,
    0xb61414eb12c0a57c, 0xf6c71c472a9c6c6d, 0x36af04ae62782a5e, 0x767c0c025a24e34f] := by decide +kernel
theorem test_lpsx : lpsx x31 0 = lanes [0x893f0b27b76b44e9, 0x777df101efe7f20f, 0xdebb8d3252efa37f, 0x1016db74baaf7027,
    0xdfeaa2ada0656f2a, 0x83922b173648e8f3, 0xa2c702de2fab0302, 0x7fd076779b5738bb] := by decide +kernel
theorem test_lpsx_round_constant : lpsx (lanes (List.replicate 8 0xb383fc2eced4a574)) (roundConst 1) =
    lanes [0xf4d18af70c46cf1e, 0x36f728bd1d7eec33, 0x3569cd2ba0513010, 0x88be14f0b2da2797, 0xa73d010807dae9c1,
      0xe0e902d23aef2ee9, 0x13f2c3ebc774e80d, 0xd0b00807642fd78f] := by decide +kernel
theorem test_tableT_entries :
    tableT 0 0x00 = 0xd01f715b5c7ef8e6 ∧ tableT 7 0x00 = 0xe63f55ce97c331d0 ∧ tableT 4 0x80 = 0x7c3dbf4229a2a925 ∧
    tableT 2 0x3c = 0x9f0f6ec450062e84 ∧ tableT 3 0xa5 = 0 := by decide +kernel
theorem test_add_ripples_seven_lanes : add512le (lanes (List.replicate 7 0xffffffffffffffff)) 1 =
    lanes [0, 0, 0, 0, 0, 0, 0, 1] := by decide +kernel
theorem test_add_drops_last_carry : add512le (lanes [0, 0, 0, 0, 0, 0, 0, 0x8000000000000000])
    (lanes [0, 0, 0, 0, 0, 0, 0, 0x8000000000000000]) = 0 := by decide +kernel
theorem test_pad_8 : mkpad 0xfffbe2e5f0eee3c820 8 = lanes [0xfbe2e5f0eee3c820, 0x0000000000000001] := by decide +kernel
theorem test_pad_63 : mkpad (lanes (List.replicate 8 0xeeeeeeeeeeeeeeee)) 63 =
    lanes ((List.replicate 7 0xeeeeeeeeeeeeeeee) ++ [0x01eeeeeeeeeeeeee]) := by decide +kernel
theorem test_roundConst_12 : lane (roundConst 12) 7 = 0x378ee767f11631ba ∧ lane (roundConst 1) 0 = 0xdd806559f2a64507 := by
  decide +kernel

/-! ### One step of each command -/

/-- Bytes 0..63 of M2 (section 5.2). -/
def m2Block : Block := lanes [0xe8f0f2e5e220e5d1, 0xeee1e8f0f2d1202c, 0xe8f6f3ede220e8e6, 0x20faf2fee5e2202c,
  0xf120fff0eeec20f1, 0x20e8ece0ebe5f0f2, 0xf0e1e0f0f520e0ed, 0xfbeafaebef20fffb]

/-- h after NEW H512; ABSORB M2[0..63] (section 5.2). -/
def m2Chain : Block := lanes [0x2e816cdac407c7af, 0x2e5d221e8e2cea85, 0xa7843b8889731f48, 0x98ef779ef7c7a46a,
  0x27b7ac459b0c517b, 0xe2914e938f10f8e1, 0xe3bb4ccd9795395d, 0xcd7f602312faa465]

/-- Section 5.1, NEW from the state after hardware reset. -/
theorem test_new_after_hardware_reset : ∃ t, step (State.reset.withFetchWord 16 0x1000) = .next t ∧ t.mode = .h256 ∧
    t.h = iv .h256 ∧ t.N = 0 ∧ t.sigma = 0 := ⟨_, rfl, rfl, rfl, rfl, rfl⟩

/-- Section 5.1, last row, and program P5, row 1. -/
theorem test_refused_before_new : step (State.reset.withFetchWord 16 0x2000) = .refused .notConstructed ∧
    step (State.reset.withFetchWord 16 0x3000) = .refused .notConstructed ∧
    step (State.reset.withFetchWord 16 0x4000) = .refused .notConstructed := ⟨rfl, rfl, rfl⟩

/-- Program P5, row 3. -/
theorem test_reserved_word_refused : step (ready .h512 [word 0x4040]) = .refused (.reservedCommand .reservedArgument) := rfl

/-- Section 5.1: RESET restores the state of NEW for the same mode. -/
theorem test_reset : step { ready .h256 [word 0x2000] with h := 1, N := 512, sigma := 3 } = .next (ready .h256 []) := rfl

/-- Section 5.2, h after ABSORB M2[0..63] in H512. -/
theorem test_absorb_chain : (absorbBlock m2Block (ready .h512 [])).h = m2Chain := by decide +kernel

/-- Section 5.2, N and Σ of the same step. -/
theorem test_absorb_counters : (absorbBlock m2Block (ready .h512 [])).N = 0x200 ∧
    (absorbBlock m2Block (ready .h512 [])).sigma = m2Block := by decide +kernel

/-- Scenario C, the regression test the source asks for (R173): DOUT of FINALIZE 8 from the state after ABSORB, which is the
source's digest read from its last group to its first. -/
theorem test_finalize_scenario_C :
    (finalizeTail 8 0xfbe2e5f0eee3c820 { ready .h512 [] with h := m2Chain, N := 0x200, sigma := m2Block }).h =
      lanes [0x6fcabf2622e6881e, 0xe06915d5f2f19499, 0x1ae60f3b5a47f8da, 0x7613966de4ee0053, 0xb8a2ad4935e85f03,
        0xb3e56c497ccd0f62, 0x60642bdcddb90c3f, 0x28fbc9bada033b14] := by decide +kernel

/-- Program P3, N and Σ after FINALIZE 8. -/
theorem test_finalize_counters :
    let t := finalizeTail 8 0xfbe2e5f0eee3c820 { ready .h512 [] with h := m2Chain, N := 0x200, sigma := m2Block }
    t.N = 0x240 ∧ lane t.sigma 0 = 0xe4d3d8d6d104adf1 ∧ lane t.sigma 1 = 0xeee1e8f0f2d1202e := by decide +kernel

/-- Scenario B: the digest in H256 is DOUT bytes 32..63, lane 4 first. -/
theorem test_digest_h256 : digestLanes .h256 (lanes [0x0ac8631faca1709a, 0x1f3f667985a2fcc4, 0xe0e9795a51e4dd26,
    0x2088e482e2acf564, 0x890b59d8ef1e159d, 0x27f94ab76cbaa6da, 0xa449b16b0251d05d, 0x00557be5e584fd52]) =
    [0x890b59d8ef1e159d, 0x27f94ab76cbaa6da, 0xa449b16b0251d05d, 0x00557be5e584fd52] := by decide +kernel

/-! ### Witnesses: for each statement with hypotheses, a state and operands that meet them together -/

theorem witness_BlockIsLittleEndianInteger : (ready .h512 []).constructed = true := rfl
theorem witness_AddIsCarryChainModulo :
    (BitVec.allOnes 512).toNat = 2 ^ 512 - 1 ∧ (1 : Block).toNat = 1 := by decide +kernel
theorem witness_LpsxByTable : ∀ n < 64, blockByte (xor512 (ofBytes fun _ => 0xa5) 0) n = 0xa5 := by decide +kernel
theorem witness_TableRowFacts : sbox 0x2d ^^^ sbox 0x32 = sbox 0x8f := by decide +kernel
theorem witness_OneByteMovesOneLane :
    let y : Block := ofBytes fun n => if n = 8 * 7 + 7 then 0xa5 else 0
    (∀ n < 64, n ≠ 8 * 7 + 7 → blockByte 0 n = blockByte y n) ∧ blockByte 0 (8 * 7 + 7) ≠ blockByte y (8 * 7 + 7) := by
  decide +kernel
theorem witness_EncodeOfDecode : decode { cmd := 0x403F, din := 0 } = .ok (.finalize 63 0) ∧
    decode { cmd := 0x3000, din := 0 } = .ok (.absorb 0) ∧ decode { cmd := 0x2000, din := 1 } = .ok .reset := by
  decide +kernel
theorem witness_ReservedWordsRefused : (ready .h512 [word 0x4040]).pending = .command ⟨0x4040, 0⟩ :: [] := rfl
theorem witness_StepRunsDecodedCommand :
    (ready .h512 [word 0x403F]).pending = .command ⟨0x403F, 0⟩ :: [] ∧ decode ⟨0x403F, 0⟩ = .ok (.finalize 63 0) ∧
    (ready .h512 [word 0x1002]).pending = .command ⟨0x1002, 0⟩ :: [] ∧ decode ⟨0x1002, 0⟩ = .error .reservedArgument ∧
    (ready .h512 [.hardwareReset]).pending = .hardwareReset :: [] ∧ (ready .h512 []).pending = [] :=
  ⟨rfl, rfl, rfl, rfl, rfl, rfl⟩
theorem witness_NewConstructs : (ready .h256 []).constructed = true ∧ (ready .h256 []).mode = .h256 := ⟨rfl, rfl⟩
theorem witness_ResetReinitialises : (ready .h256 []).constructed = true ∧ (unready []).constructed = false ∧
    exec .reset (ready .h256 []) = .next (ready .h256 []) ∧ exec (.new .h256) (unready []) = .next (ready .h256 []) :=
  ⟨rfl, rfl, rfl, rfl⟩
theorem witness_AbsorbCompressesBlock : (ready .h512 []).constructed = true := rfl
theorem witness_FinalizePadsAndFolds : (ready .h512 []).constructed = true ∧ (0 : BitVec 6) = 0 ∧ (63 : BitVec 6) = 63 :=
  ⟨rfl, rfl, rfl⟩
theorem witness_OnlyNewBeforeConstruction : State.reset.constructed = false := rfl
theorem witness_HardwareResetUnconstructs : (ready .h512 [.hardwareReset]).pending = .hardwareReset :: [] ∧
    (∀ m, Instr.reset ≠ .new m) := ⟨rfl, by simp⟩
theorem witness_CommandsAfterFinalizeExecute : (ready .h256 []).constructed = true := rfl
theorem witness_CommandFrame : (∃ t, exec .reset (ready .h512 []) = .next t) ∧
    (∃ t, exec (.finalize 0 0) (ready .h512 []) = .next t) := ⟨⟨_, rfl⟩, ⟨_, rfl⟩⟩
theorem witness_DefinedCommandsComplete : (ready .h512 [word 0x403F]).pending = .command ⟨0x403F, 0⟩ :: [] ∧
    Transaction.wellFormed ⟨0x403F, 0⟩ = true ∧ (ready .h512 [word 0x403F]).constructed = true := ⟨rfl, rfl, rfl⟩
theorem witness_CommandsTakeEffectInOrder : (∃ t, step (ready .h512 [word 0x3000]) = .next t) ∧
    (ready .h512 (presented [.reset, .absorb 0])).pending = presented (.reset :: [.absorb 0]) ++ [] ∧
    ∃ t, exec .reset { ready .h512 [] with pending := presented [.absorb 0] ++ [] } = .next t :=
  ⟨⟨_, rfl⟩, rfl, ⟨_, rfl⟩⟩
theorem witness_ModeChangesOnlyByNew : ∃ t, step (ready .h256 [word 0x1001]) = .next t ∧ t.mode ≠ (ready .h256 []).mode :=
  ⟨_, rfl, by decide⟩
theorem witness_ModeImmutableBetweenNews : (∀ i ∈ [Instr.reset, .finalize 0 0], ∀ m, i ≠ .new m) ∧
    ∃ t, runSteps 2 { ready .h512 [] with pending := presented [.reset, .finalize 0 0] ++ [] } = .next t :=
  ⟨by simp, ⟨_, rfl⟩⟩
theorem witness_ConstructedOnlyByNew : ∃ t, step (unready [word 0x1000]) = .next t ∧
    (unready [word 0x1000]).constructed = false ∧ t.constructed = true := ⟨_, rfl, rfl, rfl⟩
theorem witness_ResponsesOnlyByFinalize : (ready .h512 [word 0x4000]).pending = .command ⟨0x4000, 0⟩ :: [] ∧
    (∃ t, step (ready .h512 [word 0x4000]) = .next t) ∧ decode ⟨0x4000, 0⟩ = .ok (.finalize 0 0) ∧
    (ready .h512 [word 0x3000]).pending = .command ⟨0x3000, 0⟩ :: [] ∧
    (∃ t, step (ready .h512 [word 0x3000]) = .next t) ∧ ∀ r din, decode ⟨0x3000, 0⟩ ≠ .ok (.finalize r din) := by
  refine ⟨rfl, ⟨_, rfl⟩, rfl, rfl, ⟨_, rfl⟩, fun r din h => ?_⟩
  rw [show decode ⟨0x3000, 0⟩ = .ok (.absorb 0) from rfl] at h
  cases h
theorem witness_FinalizeIgnoresBytesPastTail : ∀ n < (1 : BitVec 6).toNat, blockByte 0x0161 n = blockByte 0xff61 n := by
  decide +kernel
theorem witness_SameCommandsSameDigests :
    ∃ t, runSteps 2 { unready [] with pending := presented [.new .h512, .finalize 0 0] ++ [] } = .next t := ⟨_, rfl⟩
theorem witness_StepKeepsInvariant : Inv (ready .h512 [word 0x4000]) ∧ ∃ t, step (ready .h512 [word 0x4000]) = .next t :=
  ⟨⟨fun _ => by decide +kernel, fun h => (by cases h), fun r h => (by cases h)⟩, ⟨_, rfl⟩⟩
theorem witness_ContractIsNeverRefused :
    keepsContract .unconstructed [.new .h512, .absorb 0, .finalize 63 0, .reset, .finalize 0 0] = true := by decide
theorem witness_LengthAndSumWhileAbsorbing : (∃ m, Instr.new .h512 = .new m) ∧
    (Instr.reset = .reset ∧ (ready .h256 []).constructed = true) := ⟨⟨_, rfl⟩, rfl, rfl⟩
theorem witness_SumIgnoresBlockOrder : ([1, 2] : List Block).Perm [2, 1] := List.Perm.swap 2 1 []
theorem witness_EmptyTailEndsWholeBlocks : (List.replicate 128 (0 : Byte)).length % 64 = 0 := by decide +kernel
theorem witness_OneShotIsIncremental :
    128 % 64 = 0 ∧ 128 ≤ (List.replicate 130 (0 : Byte)).length - (List.replicate 130 (0 : Byte)).length % 64 := by decide +kernel
theorem witness_UpdateExpandsToAbsorbs : (List.replicate 64 (0 : Byte)).length % 64 = 0 ∧
    (List.replicate 65 (0 : Byte)).length % 64 ≠ 0 ∧
    ∃ is, expandUpdate (List.replicate 64 0) = some is := ⟨by decide, by decide, ⟨_, rfl⟩⟩
theorem witness_TailIsShorterThanBlock : 64 ≤ (List.replicate 64 (0 : Byte)).length ∧
    (List.replicate 63 (0 : Byte)).length < 64 := by decide
theorem witness_EnginesDoNotInteract : (∃ es, runSchedule [1, 0] [ready .h256 [word 0x2000], unready [word 0x1001]] = .next es) ∧
    [ready .h256 [word 0x2000], unready [word 0x1001]][1]? = some (unready [word 0x1001]) := ⟨⟨_, rfl⟩, rfl⟩
theorem witness_InterleavingsComplete : ([1, 0] : List Nat).Perm [0, 1] ∧
    (∀ k ∈ [1, 0], k < [ready .h256 [word 0x2000], unready [word 0x1001]].length) ∧
    (∀ k s, [ready .h256 [word 0x2000], unready [word 0x1001]][k]? = some s →
      ∃ t, runSteps ([1, 0].count k) s = .next t) := by
  refine ⟨List.Perm.swap 0 1 [], by simp, fun k s h => ?_⟩
  match k with
  | 0 => cases h; exact ⟨_, rfl⟩
  | 1 => cases h; exact ⟨_, rfl⟩
  | k + 2 => cases h

end Sys2Proof.Machine.Tests
end

section
/-! PROOFS of the statements on memory (spec/20_memory.md): a block as one integer (O1), commands in order (O35),
engines apart (O55). -/

namespace Sys2Proof.Machine

/-! ### A block as one integer -/

theorem toNat_lane (x : Block) (k : Nat) : (lane x k).toNat = x.toNat / 2 ^ (64 * k) % 2 ^ 64 := by
  rw [lane, BitVec.extractLsb'_toNat, Nat.shiftRight_eq_div_pow]

theorem toNat_blockByte (x : Block) (n : Nat) :
    (blockByte x n).toNat = x.toNat / 2 ^ (8 * n) % 2 ^ 8 := by
  rw [blockByte, BitVec.extractLsb'_toNat, Nat.shiftRight_eq_div_pow]

theorem toNat_laneByte (w : Lane) (p : Nat) : (laneByte w p).toNat = w.toNat / 2 ^ (8 * p) % 2 ^ 8 := by
  rw [laneByte, BitVec.extractLsb'_toNat, Nat.shiftRight_eq_div_pow]

/-- The low w·(n+1) bits of a number are its low w·n bits and the digit of w bits above them. -/
theorem mod_two_pow_mul_succ (x w n : Nat) :
    x % 2 ^ (w * (n + 1)) = x % 2 ^ (w * n) + x / 2 ^ (w * n) % 2 ^ w * 2 ^ (w * n) := by
  rw [Nat.mul_succ, Nat.pow_add, Nat.mod_mul, Nat.mul_comm (2 ^ (w * n))]

/-- The digits of w bits of a number, each at its weight, add up to the number's low w·n bits. -/
theorem sum_digits (x w n : Nat) :
    ((List.range n).map fun k => x / 2 ^ (w * k) % 2 ^ w * 2 ^ (w * k)).sum = x % 2 ^ (w * n) := by
  induction n with
  | zero => simp [Nat.mod_one]
  | succ n ih =>
    rw [List.range_succ, List.map_append, List.sum_append, ih, mod_two_pow_mul_succ, List.map_singleton,
      List.sum_singleton]

/-- A block is the little-endian sum of its lanes (R41). -/
theorem toNat_eq_sum_lanes (x : Block) :
    x.toNat = ((List.range 8).map fun k => (lane x k).toNat * 2 ^ (64 * k)).sum := by
  simp only [toNat_lane]
  rw [sum_digits, Nat.mod_eq_of_lt x.isLt]

/-- A block is the little-endian sum of its bytes (R41). -/
theorem toNat_eq_sum_blockBytes (x : Block) :
    x.toNat = ((List.range 64).map fun j => (blockByte x j).toNat * 2 ^ (8 * j)).sum := by
  simp only [toNat_blockByte]
  rw [sum_digits, Nat.mod_eq_of_lt x.isLt]

/-- A lane is the little-endian sum of its bytes (R40). -/
theorem toNat_eq_sum_laneBytes (w : Lane) :
    w.toNat = ((List.range 8).map fun p => (laneByte w p).toNat * 2 ^ (8 * p)).sum := by
  simp only [toNat_laneByte]
  rw [sum_digits, Nat.mod_eq_of_lt w.isLt]

/-- A lane of a block is the little-endian sum of the block's bytes 8k to 8k+7 (R40). -/
theorem toNat_lane_eq_sum_blockBytes (x : Block) (k : Nat) :
    (lane x k).toNat = ((List.range 8).map fun p => (blockByte x (8 * k + p)).toNat * 2 ^ (8 * p)).sum := by
  rw [toNat_eq_sum_laneBytes]
  refine congrArg List.sum (List.map_congr_left fun p hp => ?_)
  rw [laneByte_lane x k p (List.mem_range.1 hp)]

/-! ### The carry chain is addition -/

/-- 65 bits hold the sum of two lanes and a carry (R102). -/
theorem toNat_laneSum (a b : Lane) (c : BitVec 1) : (laneSum a b c).toNat = a.toNat + b.toNat + c.toNat := by
  have ha := a.isLt
  have hb := b.isLt
  have hc := c.isLt
  simp only [laneSum, BitVec.toNat_add, BitVec.toNat_setWidth]
  omega

/-- The carry out of lane k. -/
theorem toNat_carryInto_succ (a b : Block) (k : Nat) :
    (carryInto a b (k + 1)).toNat = ((lane a k).toNat + (lane b k).toNat + (carryInto a b k).toNat) / 2 ^ 64 := by
  have hsum := (laneSum (lane a k) (lane b k) (carryInto a b k)).isLt
  rw [carryInto, BitVec.extractLsb'_toNat, Nat.shiftRight_eq_div_pow, toNat_laneSum]
  rw [toNat_laneSum] at hsum
  omega

/-- Lane k of the sum. -/
theorem toNat_lane_add512le (a b : Block) (k : Nat) (hk : k < 8) :
    (lane (add512le a b) k).toNat =
      ((lane a k).toNat + (lane b k).toNat + (carryInto a b k).toNat) % 2 ^ 64 := by
  rw [add512le, lane_ofLanes _ _ hk, BitVec.extractLsb'_toNat, Nat.shiftRight_zero, toNat_laneSum]

/-- The low k lanes of the sum, with the carry out of them, are the sum of the low k lanes (R102). -/
theorem add512le_low_lanes (a b : Block) (k : Nat) (hk : k ≤ 8) :
    (add512le a b).toNat % 2 ^ (64 * k) + (carryInto a b k).toNat * 2 ^ (64 * k) =
      a.toNat % 2 ^ (64 * k) + b.toNat % 2 ^ (64 * k) := by
  induction k with
  | zero => simp [carryInto, Nat.mod_one]
  | succ k ih =>
    have hlane := toNat_lane_add512le a b k hk
    have hcarry := toNat_carryInto_succ a b k
    simp only [mod_two_pow_mul_succ, ← toNat_lane]
    have hdiv : (lane (add512le a b) k).toNat + 2 ^ 64 * (carryInto a b (k + 1)).toNat =
        (lane a k).toNat + (lane b k).toNat + (carryInto a b k).toNat := by
      rw [hlane, hcarry, Nat.mod_add_div]
    rw [Nat.mul_succ, Nat.pow_add]
    linear_combination ih (by omega) + 2 ^ (64 * k) * hdiv

/-- add512_le adds the two integers modulo 2^512 (R41, R102). -/
theorem toNat_add512le (a b : Block) : (add512le a b).toNat = (a.toNat + b.toNat) % 2 ^ 512 := by
  have hsum := add512le_low_lanes a b 8 (by omega)
  have ha := a.isLt
  have hb := b.isLt
  have hs := (add512le a b).isLt
  omega

/-- The integer of blk(v) is v, cut to a lane (R103). -/
theorem toNat_blk (v : Nat) : (blk v).toNat = v % 2 ^ 64 := by
  have hlane : ∀ k ∈ List.range 8,
      (lane (blk v) k).toNat * 2 ^ (64 * k) = if k = 0 then v % 2 ^ 64 else 0 := fun k hk => by
    rw [blk, lane_ofLanes _ _ (List.mem_range.1 hk)]
    split
    next h0 => rw [h0, BitVec.toNat_ofNat, Nat.mul_zero, Nat.pow_zero, Nat.mul_one]
    next => exact Nat.zero_mul _
  rw [toNat_eq_sum_lanes, List.map_congr_left hlane]
  simp [List.range_succ]

/-- Settles O1: digits of w bits add up to the number they are cut from, and the carry chain is addition. -/
theorem blockIsLittleEndianInteger : Obligations.BlockIsLittleEndianInteger := by
  refine ⟨fun x => ⟨toNat_eq_sum_lanes x, toNat_eq_sum_blockBytes x, fun k _ => toNat_lane_eq_sum_blockBytes x k,
    fun k _ p hp => (laneByte_lane x k p hp).symm⟩, toNat_add512le, fun m s hs => ?_⟩
  refine ⟨absorbBlock m s, exec_absorb_next.2 ⟨hs, rfl⟩, ?_, ?_⟩
  · rw [absorbBlock_N, toNat_add512le, toNat_blk, Nat.mod_eq_of_lt (a := 512) (by decide)]
  · rw [absorbBlock_sigma, toNat_add512le]

/-! ### Commands in order -/

/-- The word of an ABSORB selects the row ABSORB and no row before it (R61, R67). -/
theorem absorbWord_selects :
    selects (cmdWord 0x3 0) rowNew = false ∧ selects (cmdWord 0x3 0) rowReset = false ∧
    selects (cmdWord 0x3 0) rowAbsorb = true := by decide

/-- The word of a FINALIZE selects the row FINALIZE and no row before it, and carries its tail length (R61, R67). -/
theorem finalizeWord_selects : ∀ r : BitVec 6,
    selects (cmdWord 0x4 (0#2 ++ r)) rowNew = false ∧ selects (cmdWord 0x4 (0#2 ++ r)) rowReset = false ∧
    selects (cmdWord 0x4 (0#2 ++ r)) rowAbsorb = false ∧ selects (cmdWord 0x4 (0#2 ++ r)) rowFinalize = true ∧
    tailLength (cmdWord 0x4 (0#2 ++ r)) = r := by decide

/-- The decoder undoes the encoder (R61, R67). -/
theorem decode_encode_eq (i : Instr) : decode (encode i) = .ok i := by
  cases i with
  | new m => cases m <;> rfl
  | reset => rfl
  | absorb m =>
    obtain ⟨hnew, hreset, habsorb⟩ := absorbWord_selects
    simp only [decode, encode, hnew, hreset, habsorb, Bool.false_eq_true, if_false, if_true]
  | finalize r din =>
    obtain ⟨hnew, hreset, habsorb, hfinalize, htail⟩ := finalizeWord_selects r
    simp only [decode, encode, hnew, hreset, habsorb, hfinalize, htail, Bool.false_eq_true, if_false, if_true]

/-- A command leaves what the host has still to do as it is. -/
theorem exec_pending {i : Instr} {s t : State} (h : exec i s = .next t) : t.pending = s.pending := by
  obtain ⟨m, -, rfl⟩ | ⟨-, -, rfl⟩ | ⟨m, -, -, rfl⟩ | ⟨r, din, -, -, rfl⟩ := exec_cases h <;> simp

/-- A step takes exactly the host's next input (R51). -/
theorem step_takes_next_input {s t : State} (h : step s = .next t) : ∃ input, s.pending = input :: t.pending := by
  obtain ⟨rest, hp, rfl⟩ | ⟨c, rest, i, hp, -, hexec⟩ := step_cases h
  · exact ⟨.hardwareReset, hp⟩
  · exact ⟨.command c, by rw [exec_pending hexec]; exact hp⟩

/-- A step on an encoded command executes it on the rest of the host's inputs. -/
theorem step_encode {s : State} {i : Instr} {rest : List HostInput} (hp : s.pending = .command (encode i) :: rest) :
    step s = exec i (s.setPending rest) := step_command hp (decode_encode_eq i)

/-- Settles O35, by the one step that executes the first command. -/
theorem commandsTakeEffectInOrder : Obligations.CommandsTakeEffectInOrder := by
  refine ⟨fun s t h => step_takes_next_input h, fun i is rest s t hp hexec => ⟨exec_pending hexec, ?_⟩⟩
  exact runSteps_of_step _ ((step_encode hp).trans hexec)

/-! ### Several engines -/

/-- Everything a step of engine k can do that answers a next list of engines (R53). -/
theorem stepEngine_cases {es es' : List State} {k : Nat} (h : stepEngine es k = .next es') :
    ∃ s t, es[k]? = some s ∧ step s = .next t ∧ es' = es.set k t := by
  unfold stepEngine at h
  split at h
  next => cases h
  next s hs =>
    split at h
    next t ht => cases h; exact ⟨s, t, hs, ht, rfl⟩
    next => cases h
    next => cases h

/-- A schedule that completes takes its first step and completes the rest from there. -/
theorem runSchedule_cons_next {es es' : List State} {k : Nat} {rest : List Nat}
    (h : runSchedule (k :: rest) es = .next es') :
    ∃ mid, stepEngine es k = .next mid ∧ runSchedule rest mid = .next es' := by
  unfold runSchedule at h
  split at h
  next mid hmid => exact ⟨mid, hmid, h⟩
  next => cases h
  next => cases h

/-- A schedule neither adds nor removes an engine. -/
theorem runSchedule_length {schedule : List Nat} {es es' : List State} (h : runSchedule schedule es = .next es') :
    es'.length = es.length := by
  induction schedule generalizing es with
  | nil => cases h; rfl
  | cons j rest ih =>
    obtain ⟨mid, hstep, hrest⟩ := runSchedule_cons_next h
    obtain ⟨s, t, -, -, rfl⟩ := stepEngine_cases hstep
    rw [ih hrest, List.length_set]

/-- What a schedule leaves in engine k is what engine k alone computes in as many steps (R53). -/
theorem runSchedule_getElem? {schedule : List Nat} {es es' : List State} {k : Nat} {s : State}
    (h : runSchedule schedule es = .next es') (hk : es[k]? = some s) :
    ∃ t, es'[k]? = some t ∧ runSteps (schedule.count k) s = .next t := by
  induction schedule generalizing es s with
  | nil => cases h; exact ⟨s, hk, rfl⟩
  | cons j rest ih =>
    obtain ⟨mid, hstep, hrest⟩ := runSchedule_cons_next h
    obtain ⟨u, v, hj, huv, rfl⟩ := stepEngine_cases hstep
    by_cases hjk : j = k
    · subst hjk
      obtain rfl : u = s := Option.some.inj (hj.symm.trans hk)
      have hlt : j < es.length := (List.getElem?_eq_some_iff.1 hj).1
      rw [List.count_cons_self, runSteps_of_step _ huv]
      exact ih hrest (List.getElem?_set_self hlt)
    · rw [List.count_cons_of_ne hjk]
      exact ih hrest ((List.getElem?_set_ne hjk).trans hk)

/-- Settles O55, by induction on the schedule. -/
theorem enginesDoNotInteract : Obligations.EnginesDoNotInteract :=
  fun _ _ _ h => ⟨runSchedule_length h, fun _ _ hk => runSchedule_getElem? h hk⟩

end Sys2Proof.Machine
end

section
/-! PROOFS of the statements on the table of LPS (spec/41_lps_table.md): a table entry is an image under l (O11), and the
table form is L after P after S (O13). Both rest on one fact: l acts on the bytes of a lane apart. -/

namespace Sys2Proof.Machine

/-! ### The linear layer, byte by byte -/

/-- An exclusive or over m·n indices, taken in n groups of m. -/
theorem xorOver_mul (f : Nat → Lane) (m n : Nat) :
    xorOver f (m * n) = xorOver (fun i => xorOver (fun k => f (m * i + k)) m) n := by
  induction n with
  | zero => rfl
  | succ n ih => rw [Nat.mul_succ, xorOver_add, ih, xorOver]

/-- An exclusive or with one term, the others 0. -/
theorem xorOver_single {f : Nat → Lane} {n i : Nat} (hi : i < n) (h : ∀ p < n, p ≠ i → f p = 0) : xorOver f n = f i := by
  induction n with
  | zero => omega
  | succ n ih =>
    rw [xorOver]
    by_cases hin : i = n
    · rw [hin, xorOver_zero fun p hp => h p (by omega) (by omega)]
      exact BitVec.zero_xor
    · rw [ih (by omega) fun p hp => h p (by omega), h n (by omega) (by omega)]
      exact BitVec.xor_zero

/-- What byte i of a lane adds to the lane's image under l, where that byte is c: bit k of it is bit 8i + k of the lane
and selects row A[63 - k - 8i] (R92). -/
def byteImage (i : Nat) (c : Byte) : Lane := xorOver (fun k => if c.getLsbD k then rowA (63 - k - 8 * i) else 0) 8

/-- The table holds the images of the substituted bytes (R93). -/
theorem tableT_eq_byteImage (i : Nat) (b : Byte) : tableT i b = byteImage i (sbox b) := rfl

@[simp] theorem byteImage_zero (i : Nat) : byteImage i 0 = 0 := xorOver_zero fun k _ => by simp

/-- l acts on the eight bytes of a lane apart (R92). -/
theorem linLane_eq_xorOver_byteImage (w : Lane) : linLane w = xorOver (fun i => byteImage i (laneByte w i)) 8 := by
  refine (xorOver_mul _ 8 8).trans ?_
  refine xorOver_congr fun i _ => xorOver_congr fun k hk => ?_
  rw [getLsbD_laneByte, decide_eq_true hk, Bool.true_and, Nat.sub_sub, Nat.add_comm k]

/-- Byte i of the lane whose byte i is c. -/
theorem laneByte_shifted_same (c : Byte) {i : Nat} (hi : i < 8) : laneByte (c.setWidth 64 <<< (8 * i)) i = c := by
  refine bitVec_ext fun k hk => ?_
  have hlt : 8 * i + k < 64 := by omega
  have hk64 : k < 64 := by omega
  rw [getLsbD_laneByte, BitVec.getLsbD_shiftLeft, BitVec.getLsbD_setWidth, Nat.add_sub_cancel_left]
  simp [hk, hlt, hk64]

/-- The bytes of the lane whose byte i is c, other than byte i. -/
theorem laneByte_shifted_other (c : Byte) {i p : Nat} (hp : p ≠ i) : laneByte (c.setWidth 64 <<< (8 * i)) p = 0 := by
  refine bitVec_ext fun k hk => ?_
  rw [getLsbD_laneByte, BitVec.getLsbD_shiftLeft, BitVec.getLsbD_setWidth]
  obtain hlt | hgt := Nat.lt_or_gt_of_ne hp
  · have hbelow : 8 * p + k < 8 * i := by omega
    simp [hbelow]
  · have habove : 8 ≤ 8 * p + k - 8 * i := by omega
    simp [BitVec.getLsbD_of_ge c _ habove]

/-- The image under l of a lane with one byte c, the others 0 (R93). -/
theorem linLane_shifted (c : Byte) {i : Nat} (hi : i < 8) : linLane (c.setWidth 64 <<< (8 * i)) = byteImage i c := by
  rw [linLane_eq_xorOver_byteImage, xorOver_single hi, laneByte_shifted_same c hi]
  intro p _ hp
  rw [laneByte_shifted_other c hp, byteImage_zero]

/-- Settles O11, by l acting on the bytes of a lane apart. -/
theorem tableEntryIsImageOfByte : Obligations.TableEntryIsImageOfByte := by
  intro i hi b
  have himage : tableT i b = linLane ((sbox b).setWidth 64 <<< (8 * i)) := by
    rw [linLane_shifted _ hi, tableT_eq_byteImage]
  exact ⟨rfl, fun k hk => by omega, himage⟩

/-! ### L after P after S -/

/-- Lane k of L(x) (R92). -/
theorem lane_linL (x : Block) {k : Nat} (hk : k < 8) : lane (linL x) k = linLane (lane x k) := by
  rw [linL, lane_ofLanes _ _ hk]

/-- Byte n of S(x) (R90). -/
theorem blockByte_subS (x : Block) {n : Nat} (hn : n < 64) : blockByte (subS x) n = sbox (blockByte x n) := by
  rw [subS, blockByte_ofBytes _ _ hn]

/-- Byte i of lane j of P(x) is byte j of lane i of x (R91). -/
theorem blockByte_permP (x : Block) {i j : Nat} (hi : i < 8) (hj : j < 8) :
    blockByte (permP x) (8 * j + i) = blockByte x (8 * i + j) := by
  have hmod : (8 * j + i) % 8 = i := by omega
  have hdiv : (8 * j + i) / 8 = j := by omega
  rw [permP, blockByte_ofBytes _ _ (by omega), hmod, hdiv]

/-- Byte i of lane j of P(S(x)) is π of byte j of lane i of x (R94). -/
theorem laneByte_permP_subS (x : Block) {i j : Nat} (hi : i < 8) (hj : j < 8) :
    laneByte (lane (permP (subS x)) j) i = sbox (laneByte (lane x i) j) := by
  rw [laneByte_lane _ _ _ hi, blockByte_permP _ hi hj, blockByte_subS _ (by omega), laneByte_lane _ _ _ hj]

/-- A lane of L(P(S(x))) by the table (R94). -/
theorem lane_linL_permP_subS (x : Block) {j : Nat} (hj : j < 8) :
    lane (linL (permP (subS x))) j = xorOver (fun i => tableT i (laneByte (lane x i) j)) 8 := by
  rw [lane_linL _ hj, linLane_eq_xorOver_byteImage]
  refine xorOver_congr fun i hi => ?_
  rw [laneByte_permP_subS x hi hj, tableT_eq_byteImage]

/-- LPSX by the table is L after P after S of the exclusive or (R94, R101). -/
theorem lpsx_eq_linL_permP_subS (l r : Block) : lpsx l r = linL (permP (subS (xor512 l r))) := by
  refine block_ext_lanes fun j hj => ?_
  rw [lane_linL_permP_subS _ hj, lpsx, lane_ofLanes _ _ hj, xor512_eq_xor]
  simp only [lane_xor]

/-- Settles O13, lane by lane from the bytes of P(S(x)). -/
theorem tableFormIsLPS : Obligations.TableFormIsLPS :=
  ⟨fun x _ hj => lane_linL_permP_subS x hj, lpsx_eq_linL_permP_subS⟩

end Sys2Proof.Machine
end

section
/-! PROOFS of the statements on the primitives (spec/42_primitives.md): addition (O3), exclusive or (O2) and the
initialization vectors (O5). The laws of the first two are those of BitVec, once each is shown to be BitVec's own. -/

namespace Sys2Proof.Machine

/-! ### add512_le -/

/-- add512_le is the addition of 512-bit vectors (R102). -/
theorem add512le_eq_add (a b : Block) : add512le a b = a + b :=
  BitVec.eq_of_toNat_eq (by rw [toNat_add512le, BitVec.toNat_add])

/-- Two lanes and the carry into them fit 65 bits (R102). -/
theorem toNat_lanes_add_carry_le (a b : Block) (k : Nat) :
    (lane a k).toNat + (lane b k).toNat + (carryInto a b k).toNat ≤ 2 ^ 65 - 1 := by
  rw [← toNat_laneSum]
  exact Nat.le_pred_of_lt (BitVec.isLt _)

/-- The carries of R102: none into lane 0, at most 1 into each lane, and each lane's sum split into the lane of the result
and the next carry. -/
theorem add512le_carry_chain (a b : Block) :
    ∃ c : Nat → Nat, c 0 = 0 ∧ ∀ k < 8, c k ≤ 1 ∧
      (lane a k).toNat + (lane b k).toNat + c k ≤ 2 ^ 65 - 1 ∧
      (lane (add512le a b) k).toNat = ((lane a k).toNat + (lane b k).toNat + c k) % 2 ^ 64 ∧
      c (k + 1) = ((lane a k).toNat + (lane b k).toNat + c k) / 2 ^ 64 :=
  ⟨fun k => (carryInto a b k).toNat, rfl, fun k hk =>
    ⟨Nat.le_of_lt_succ (carryInto a b k).isLt, toNat_lanes_add_carry_le a b k, toNat_lane_add512le a b k hk,
      toNat_carryInto_succ a b k⟩⟩

/-- Adding 1 to the largest block gives 0: the carry out of lane 7 is dropped (R102). -/
theorem add512le_max_one {a b : Block} (ha : a.toNat = 2 ^ 512 - 1) (hb : b.toNat = 1) : add512le a b = 0 :=
  BitVec.eq_of_toNat_eq (by rw [toNat_add512le, ha, hb, BitVec.ofNat_eq_ofNat, BitVec.toNat_zero]; omega)

/-- Adding the largest block to itself gives the largest but one (R102). -/
theorem toNat_add512le_max_max {a b : Block} (ha : a.toNat = 2 ^ 512 - 1) (hb : b.toNat = 2 ^ 512 - 1) :
    (add512le a b).toNat = 2 ^ 512 - 2 := by
  rw [toNat_add512le, ha, hb]
  omega

/-- Settles O3: the chain is carryInto, and by it add512_le is the addition of 512-bit vectors. -/
theorem addIsCarryChainModulo : Obligations.AddIsCarryChainModulo := by
  refine ⟨fun a b => ⟨add512le_carry_chain a b, toNat_add512le a b, ?_, fun x => ?_, ?_, add512le_max_one,
    toNat_add512le_max_max⟩, ?_⟩ <;> simp only [add512le_eq_add]
  · exact BitVec.add_comm a b
  · exact BitVec.add_assoc a b x
  · exact BitVec.add_zero a
  · decide +kernel

/-! ### xor512 -/

/-- xor512 of two blocks given by their lanes (R100). -/
theorem xor512_ofLanes (f g : Nat → Lane) : xor512 (ofLanes f) (ofLanes g) = ofLanes fun k => f k ^^^ g k :=
  block_ext_lanes fun k hk => by simp only [xor512, lane_ofLanes _ _ hk]

/-- Settles O2: lanes, bits and laws are those of the exclusive or of 512-bit vectors. -/
theorem xorIsLanewise : Obligations.XorIsLanewise := by
  have hexample : (0x0101010101010101 ^^^ 0x00000000000000ff : Lane) = 0x01010101010101fe := by decide
  refine ⟨fun l r => ?_, by rw [xor512_ofLanes, hexample]⟩
  simp only [xor512_eq_xor]
  exact ⟨fun k _ => lane_xor l r k, fun _ _ => BitVec.getLsbD_xor, BitVec.xor_comm l r,
    fun x => BitVec.xor_assoc l r x, BitVec.xor_self, BitVec.xor_zero⟩

/-! ### iv -/

/-- Every byte of IV_256 is 0x01 (R83, R105). -/
theorem blockByte_iv256 {n : Nat} (hn : n < 64) : blockByte iv256 n = 0x01 := blockByte_ofBytes _ _ hn

/-- Every lane of IV_256 is eight bytes 0x01 (R105). -/
theorem lane_iv256 {k : Nat} (hk : k < 8) : lane iv256 k = 0x0101010101010101 := by
  have hones : ∀ p < 8, laneByte 0x0101010101010101 p = 0x01 := by decide
  refine lane_ext_bytes fun p hp => ?_
  rw [laneByte_lane _ _ _ hp, blockByte_iv256 (by omega), hones p hp]

/-- Settles O5: there are two modes, and the bytes of IV_256 give its lanes. -/
theorem ivByMode : Obligations.IvByMode := by
  refine ⟨fun m => ?_, rfl, fun n hn => blockByte_iv256 hn, fun k hk => lane_iv256 hk⟩
  cases m with
  | h256 => exact .inl rfl
  | h512 => exact .inr rfl

end Sys2Proof.Machine
end

section
/-! PROOFS of the statements on the compression function (spec/43_compression.md): the rounds of g (O16). -/

namespace Sys2Proof.Machine

/-! ### The rounds of g -/

/-- The transient blocks of g after n rounds on m under the first key K_1: K_{n+1} and t_n (R113). -/
def workAfter (K1 m : Block) (n : Nat) : Work := { K := roundKey K1 n, t := roundText K1 m n }

/-- The first round sets the transient blocks from K_1 and m (step 2 of R110). -/
theorem workAfter_one (K1 m : Block) :
    workAfter K1 m 1 = { K := lpsx K1 (roundConst 1), t := lpsx K1 m } := rfl

/-- Pass n of g's loop is the round after round n (R110, R113). -/
theorem roundPass_workAfter (K1 m : Block) (n : Nat) :
    roundPass (workAfter K1 m n) n = workAfter K1 m (n + 1) := rfl

/-- g's loop over the passes 1 to n, begun after the first round, does n rounds more (R110, R113). -/
theorem foldl_roundPass_workAfter (K1 m : Block) (n : Nat) :
    (List.range' 1 n).foldl roundPass (workAfter K1 m 1) = workAfter K1 m (n + 1) := by
  induction n with
  | zero => rfl
  | succ n ih =>
    rw [List.range'_1_concat, List.foldl_append, ih, Nat.add_comm 1 n]
    exact roundPass_workAfter K1 m (n + 1)

/-- g is the exclusive or of h, the text after twelve rounds, the thirteenth key and m (R110, R113). -/
theorem compress_eq_rounds (m N h : Block) (isZero : Bool) :
    compress m N h isZero =
      xor512 (xor512 (xor512 h (roundText (lpsx h (if isZero then 0 else N)) m 12))
        (roundKey (lpsx h (if isZero then 0 else N)) 12)) m := by
  simp only [compress, ← workAfter_one, foldl_roundPass_workAfter]
  rfl

/-- g is the keyed permutation E, then the feed-forward of h and m (R113). -/
theorem compress_eq_permE (m N h : Block) (isZero : Bool) :
    compress m N h isZero = xor512 (xor512 (permE (lpsx h (if isZero then 0 else N)) m) h) m := by
  rw [compress_eq_rounds, permE]
  simp only [xor512_eq_xor, BitVec.xor_comm h, BitVec.xor_assoc]

/-- Settles O16: keys and texts by their recursion, and g by the induction over the passes of its loop. -/
theorem compressIsTwelveRoundsAndKey : Obligations.CompressIsTwelveRoundsAndKey := by
  intro m N h
  refine ⟨rfl, fun i hi _ => ?_, rfl, fun _ _ _ => rfl, rfl, compress_eq_permE m N h false⟩
  obtain ⟨n, rfl⟩ := Nat.exists_eq_add_of_le' hi
  rfl

end Sys2Proof.Machine
end

section
/-! PROOFS of the statements on the commands (spec/44_commands.md): what ABSORB (O26) and FINALIZE (O27) leave, that MODE
enters through iv only (O42), and that the same commands after NEW do the same to any two engines (O41). -/

namespace Sys2Proof.Machine

/-! ### The blocks that ABSORB and FINALIZE add -/

theorem add512le_zero (a : Block) : add512le a 0 = a := (add512le_eq_add a 0).trans (BitVec.add_zero a)

theorem zero_add512le (a : Block) : add512le 0 a = a := (add512le_eq_add 0 a).trans (BitVec.zero_add a)

/-- blk(0) is the zero block (R103). -/
theorem blk_zero : blk 0 = 0 :=
  BitVec.eq_of_toNat_eq (by rw [toNat_blk, BitVec.ofNat_eq_ofNat, BitVec.toNat_zero, Nat.zero_mod])

/-- The increment of ABSORB is not zero modulo 2^512 (R122). -/
theorem blk_512_ne_zero : blk 512 ≠ 0 := fun h => by
  have hnat := congrArg BitVec.toNat h
  rw [toNat_blk, BitVec.ofNat_eq_ofNat, BitVec.toNat_zero] at hnat
  exact absurd hnat (by decide)

/-- Adding a block that is not zero changes the sum (R102). -/
theorem add512le_ne_left (a : Block) {b : Block} (hb : b ≠ 0) : add512le a b ≠ a := fun h =>
  hb (BitVec.add_right_eq_self.1 ((add512le_eq_add a b).symm.trans h))

/-- Byte n of the pad block (R124). -/
theorem blockByte_mkpad (din : Block) (r : BitVec 6) {n : Nat} (hn : n < 64) :
    blockByte (mkpad din r) n =
      if n < r.toNat then blockByte din n else if n = r.toNat then 0x01 else 0x00 := blockByte_ofBytes _ _ hn

/-- The byte after the tail is 0x01 (R124). -/
theorem blockByte_mkpad_tailLength (din : Block) (r : BitVec 6) : blockByte (mkpad din r) r.toNat = 0x01 := by
  rw [blockByte_mkpad din r r.isLt, if_neg (Nat.lt_irrefl _), if_pos rfl]

/-- The pad block of an empty tail is the integer 1 (R123, R124). -/
theorem mkpad_zero (din : Block) : mkpad din 0 = 0x01 := by
  have hone : ∀ n < 64, blockByte 0x01 n = if n = 0 then 0x01 else 0x00 := by decide +kernel
  refine block_ext_bytes fun n hn => ?_
  rw [blockByte_mkpad din 0 hn, hone n hn]
  exact if_neg (Nat.not_lt_zero n)

/-! ### ABSORB and FINALIZE -/

/-- The word of ABSORB as the encoder writes it (R61, R67). -/
theorem encode_absorb (d : Block) : encode (.absorb d) = { cmd := 0x3000, din := d } := rfl

/-- The word of FINALIZE as the encoder writes it: the tail length is the low six bits (R61, R65, R67). -/
theorem encode_finalize (r : BitVec 6) (d : Block) :
    encode (.finalize r d) = { cmd := 0x4000 ||| r.setWidth 16, din := d } := by
  have hword : ∀ r : BitVec 6, cmdWord 0x4 (0#2 ++ r) = 0x4000 ||| r.setWidth 16 := by decide
  rw [encode, hword]

/-- Settles O26: both equations are absorbBlock's, and 512 is not zero modulo 2^512. -/
theorem absorbCompressesBlock : Obligations.AbsorbCompressesBlock := by
  intro m s hs
  refine ⟨exec_absorb_next.2 ⟨hs, rfl⟩, fun m' => exec_absorb_next.2 ⟨hs, rfl⟩, add512le_zero s.sigma,
    add512le_ne_left s.N blk_512_ne_zero, fun d => ?_⟩
  rw [← encode_absorb]
  exact decode_encode_eq (.absorb d)

/-- Settles O27: the six steps are finalizeTail's; the two corners are those of the pad block. -/
theorem finalizePadsAndFolds : Obligations.FinalizePadsAndFolds := by
  intro r din s hs
  refine ⟨exec_finalize_next.2 ⟨hs, rfl⟩, ?_, ?_, ?_⟩
  · rintro rfl
    exact ⟨(congrArg _ blk_zero).trans (add512le_zero s.N), mkpad_zero din⟩
  · rintro rfl
    exact blockByte_mkpad_tailLength din 63
  · rw [← encode_finalize]
    exact decode_encode_eq (.finalize r din)

/-- Settles O42: NEW leaves iv m, 0 and 0, and ABSORB adds to these. -/
theorem modeEntersThroughIv : Obligations.ModeEntersThroughIv := by
  intro m b s
  refine ⟨_, _, exec_new m s, exec_absorb_next.2 ⟨rfl, rfl⟩, rfl, ?_, ?_⟩
  · exact zero_add512le (blk 512)
  · exact zero_add512le b

/-! ### The same commands on two engines -/

/-- Two engines with the same registers, each with its own host: what is pending, delivered and counted may differ. -/
structure SameRegisters (s s' : State) : Prop where
  mode : s'.mode = s.mode
  h : s'.h = s.h
  N : s'.N = s.N
  sigma : s'.sigma = s.sigma
  constructed : s'.constructed = s.constructed

/-- One engine went from s to t and another from s' to t', to the same registers and with the same responses added. -/
structure SameEffect (s t s' t' : State) : Prop where
  registers : SameRegisters t t'
  responses : ∃ out, t.responses = s.responses ++ out ∧ t'.responses = s'.responses ++ out

/-- Two stretches of the same effect, one after the other. -/
theorem SameEffect.trans {s t u s' t' u' : State} (hst : SameEffect s t s' t') (htu : SameEffect t u t' u') :
    SameEffect s u s' u' := by
  obtain ⟨-, out, hout, hout'⟩ := hst
  obtain ⟨hregs, more, hmore, hmore'⟩ := htu
  refine ⟨hregs, out ++ more, ?_, ?_⟩
  · rw [hmore, hout, List.append_assoc]
  · rw [hmore', hout', List.append_assoc]

/-- Where neither engine delivers anything, the same registers are the same effect. -/
theorem SameRegisters.silentEffect {s t s' t' : State} (hregs : SameRegisters t t') (ht : t.responses = s.responses)
    (ht' : t'.responses = s'.responses) : SameEffect s t s' t' :=
  ⟨hregs, [], ht.trans (List.append_nil _).symm, ht'.trans (List.append_nil _).symm⟩

/-- NEW has the same effect on any two engines: it reads no register (R120). -/
theorem new_sameEffect (m : Mode) (s s' : State) :
    SameEffect s (initialise m (s.setMode m)).setConstructed s' (initialise m (s'.setMode m)).setConstructed :=
  SameRegisters.silentEffect ⟨rfl, rfl, rfl, rfl, rfl⟩ rfl rfl

/-- RESET has the same effect on engines with the same registers (R121). -/
theorem initialise_sameEffect {s s' : State} (hregs : SameRegisters s s') :
    SameEffect s (initialise s.mode s) s' (initialise s'.mode s') :=
  SameRegisters.silentEffect ⟨hregs.mode, congrArg iv hregs.mode, rfl, rfl, hregs.constructed⟩ rfl rfl

/-- ABSORB has the same effect on engines with the same registers (R122). -/
theorem absorbBlock_sameEffect (m : Block) {s s' : State} (hregs : SameRegisters s s') :
    SameEffect s (absorbBlock m s) s' (absorbBlock m s') := by
  obtain ⟨hmode, hh, hN, hsigma, hcon⟩ := hregs
  refine SameRegisters.silentEffect ⟨hmode, ?_, ?_, ?_, hcon⟩ rfl rfl
  · rw [absorbBlock_h, absorbBlock_h, hN, hh]
  · rw [absorbBlock_N, absorbBlock_N, hN]
  · rw [absorbBlock_sigma, absorbBlock_sigma, hsigma]

/-- FINALIZE has the same effect on engines with the same registers: its response is made of h and MODE (R123, R127). -/
theorem finalizeTail_sameEffect (r : BitVec 6) (din : Block) {s s' : State} (hregs : SameRegisters s s') :
    SameEffect s (finalizeTail r din s) s' (finalizeTail r din s') := by
  obtain ⟨hmode, hh, hN, hsigma, hcon⟩ := hregs
  have hdout : (finalizeTail r din s').h = (finalizeTail r din s).h := by
    rw [finalizeTail_h, finalizeTail_h, hN, hh, hsigma]
  refine ⟨⟨hmode, hdout, ?_, ?_, hcon⟩, _, finalizeTail_responses r din s, ?_⟩
  · rw [finalizeTail_N, finalizeTail_N, hN]
  · rw [finalizeTail_sigma, finalizeTail_sigma, hsigma]
  · rw [finalizeTail_responses, hdout, hmode]

/-- A command that completes on one engine completes with the same effect on any engine with the same registers. -/
theorem exec_sameEffect {i : Instr} {s s' t : State} (hregs : SameRegisters s s') (h : exec i s = .next t) :
    ∃ t', exec i s' = .next t' ∧ SameEffect s t s' t' := by
  obtain ⟨m, rfl, rfl⟩ | ⟨rfl, hs, rfl⟩ | ⟨m, rfl, hs, rfl⟩ | ⟨r, din, rfl, hs, rfl⟩ := exec_cases h
  · exact ⟨_, exec_new m s', new_sameEffect m s s'⟩
  · exact ⟨_, exec_reset_next.2 ⟨hregs.constructed.trans hs, rfl⟩, initialise_sameEffect hregs⟩
  · exact ⟨_, exec_absorb_next.2 ⟨hregs.constructed.trans hs, rfl⟩, absorbBlock_sameEffect m hregs⟩
  · exact ⟨_, exec_finalize_next.2 ⟨hregs.constructed.trans hs, rfl⟩, finalizeTail_sameEffect r din hregs⟩

/-- A run of k + 1 steps that completes takes its first step and completes the rest from there. -/
theorem runSteps_succ_next {k : Nat} {s t : State} (h : runSteps (k + 1) s = .next t) :
    ∃ u, step s = .next u ∧ runSteps k u = .next t := by
  rw [runSteps_succ] at h
  cases hs : step s with
  | next u => rw [hs] at h; exact ⟨u, rfl, h⟩
  | fault r => rw [hs] at h; cases h
  | refused r => rw [hs] at h; cases h

/-- What the host has still to do does not enter the effect: it is taken off before the command executes. -/
theorem SameEffect.of_setPending {s t s' t' : State} {inputs inputs' : List HostInput}
    (heffect : SameEffect (s.setPending inputs) t (s'.setPending inputs') t') : SameEffect s t s' t' :=
  ⟨heffect.registers, heffect.responses⟩

/-- A command sequence that completes on one engine completes with the same effect on any engine with the same registers,
whatever each host does after it (R131). -/
theorem runSteps_sameEffect {is : List Instr} {rest rest' : List HostInput} {s s' t : State} (hregs : SameRegisters s s')
    (hp : s.pending = presented is ++ rest) (hp' : s'.pending = presented is ++ rest')
    (h : runSteps is.length s = .next t) :
    ∃ t', runSteps is.length s' = .next t' ∧ SameEffect s t s' t' := by
  induction is generalizing s s' with
  | nil => cases h; exact ⟨s', rfl, hregs.silentEffect rfl rfl⟩
  | cons i is ih =>
    obtain ⟨u, hstep, hrun⟩ := runSteps_succ_next h
    rw [step_encode hp] at hstep
    have hregs_taken : SameRegisters (s.setPending (presented is ++ rest)) (s'.setPending (presented is ++ rest')) :=
      ⟨hregs.mode, hregs.h, hregs.N, hregs.sigma, hregs.constructed⟩
    obtain ⟨u', hexec', hfirst⟩ := exec_sameEffect hregs_taken hstep
    obtain ⟨t', hrun', hothers⟩ := ih hfirst.registers (exec_pending hstep) (exec_pending hexec') hrun
    exact ⟨t', (runSteps_of_step _ ((step_encode hp').trans hexec')).trans hrun', hfirst.of_setPending.trans hothers⟩

/-- NEW, presented to any engine, is executed first and the run goes on from the state it constructs (R120). -/
theorem runSteps_new (m : Mode) (is : List Instr) (rest : List HostInput) (s : State) :
    runSteps (is.length + 1) (s.setPending (presented (.new m :: is) ++ rest)) =
      runSteps is.length (initialise m ((s.setPending (presented is ++ rest)).setMode m)).setConstructed :=
  runSteps_of_step _ ((step_encode rfl).trans (exec_new m _))

/-- Settles O41: NEW makes the registers of the two engines the same, and by induction over the commands they stay so. -/
theorem sameCommandsSameDigests : Obligations.SameCommandsSameDigests := by
  intro m is rest rest' s s' t h
  have hnew := new_sameEffect m (s.setPending (presented is ++ rest)) (s'.setPending (presented is ++ rest'))
  obtain ⟨t', hrun', hothers⟩ := runSteps_sameEffect hnew.registers rfl rfl ((runSteps_new m is rest s).symm.trans h)
  obtain ⟨hregs, out, hout, hout'⟩ := hnew.of_setPending.trans hothers
  exact ⟨t', (runSteps_new m is rest' s').trans hrun', hregs.mode, hregs.h, hregs.N, hregs.sigma, out, hout, hout'⟩

end Sys2Proof.Machine
end

section
/-! PROOFS of the statements on exceptions (spec/60_exceptions.md): every defined command completes (O34). The words that
the field layout accepts are those the encoder writes, and the decoder undoes the encoder. -/

namespace Sys2Proof.Machine

/-! ### The words that the field layout accepts -/

/-- A command word is made of its three fields (R61). -/
theorem cmdWord_opField_argField {w : CmdWord} (hz : zField w = 0) : cmdWord (opField w) (argField w) = w := by
  have hfields : opField w ++ zField w ++ argField w = w := by
    rw [opField, zField, argField, BitVec.extractLsb'_append_extractLsb'_eq_extractLsb' (by decide),
      BitVec.extractLsb'_append_extractLsb'_eq_extractLsb' (by decide), BitVec.extractLsb'_eq_self]
  rwa [hz] at hfields

/-- The operation field of a defined word is that of NEW, RESET, ABSORB or FINALIZE (R67). -/
theorem opField_cases {w : CmdWord} (h : opDefined w = true) :
    opField w = 0x1 ∨ opField w = 0x2 ∨ opField w = 0x3 ∨ opField w = 0x4 := by
  have hop : ∀ op : BitVec 4, (1 ≤ op.toNat && op.toNat ≤ 4) = true →
      op = 0x1 ∨ op = 0x2 ∨ op = 0x3 ∨ op = 0x4 := by decide
  exact hop _ h

/-- An ARG with the bits clear that NEW reserves is the MODE bit of a mode (R61, R64). -/
theorem arg_eq_modeBit : ∀ arg : BitVec 8, arg >>> 1 = 0 → arg = 0#7 ++ modeBit (modeOfBit (arg.getLsbD 0)) := by
  decide

/-- An ARG with the bits clear that FINALIZE reserves is a tail length (R61, R65). -/
theorem arg_eq_tailLength : ∀ arg : BitVec 8, arg >>> 6 = 0 → arg = 0#2 ++ arg.extractLsb' 0 6 := by
  decide

/-- Every word that the field layout accepts is one that the encoder writes (R61, R68). -/
theorem exists_encode_cmd_of_wellFormedCmd {w : CmdWord} (h : wellFormedCmd w = true) : ∃ i, (encode i).cmd = w := by
  simp only [wellFormedCmd, Bool.and_eq_true] at h
  obtain ⟨⟨hdefined, hz⟩, harg⟩ := h
  have hw := cmdWord_opField_argField (beq_iff_eq.1 hz)
  obtain hop | hop | hop | hop := opField_cases hdefined <;>
    simp only [argReservedClear, hop, BitVec.reduceToNat, beq_iff_eq] at harg <;>
    rw [hop] at hw
  · rw [arg_eq_modeBit _ harg] at hw
    exact ⟨.new _, hw⟩
  · rw [harg] at hw
    exact ⟨.reset, hw⟩
  · rw [harg] at hw
    exact ⟨.absorb 0, hw⟩
  · rw [arg_eq_tailLength _ harg] at hw
    exact ⟨.finalize _ 0, hw⟩

/-- The word of a NEW selects the row NEW (R61, R67). -/
theorem newWord_selects (m : Mode) : selects (encode (.new m)).cmd rowNew = true := by
  cases m <;> decide

/-- The word of RESET selects the row RESET and not the row before it (R61, R67). -/
theorem resetWord_selects : selects (encode .reset).cmd rowNew ≠ true ∧ selects (encode .reset).cmd rowReset = true := by
  decide

/-- Whether a word decodes does not depend on DIN: a word that the encoder writes decodes with any (R62, R67). -/
theorem exists_decode_encode_cmd (i : Instr) (din : Block) : ∃ j, decode { cmd := (encode i).cmd, din := din } = .ok j := by
  cases i with
  | new m => exact ⟨_, if_pos (newWord_selects m)⟩
  | reset =>
    obtain ⟨hnew, hreset⟩ := resetWord_selects
    exact ⟨_, (if_neg hnew).trans (if_pos hreset)⟩
  | absorb m => exact ⟨.absorb din, decode_encode_eq (.absorb din)⟩
  | finalize r d => exact ⟨.finalize r din, decode_encode_eq (.finalize r din)⟩

/-- A transaction that the field layout accepts decodes (R67, R68). -/
theorem exists_decode_of_wellFormed {c : Transaction} (h : c.wellFormed = true) : ∃ i, decode c = .ok i := by
  obtain ⟨i, hi⟩ := exists_encode_cmd_of_wellFormedCmd h
  have hdecode := exists_decode_encode_cmd i c.din
  rwa [hi] at hdecode

/-! ### Commands on a constructed engine -/

/-- Every command completes on a constructed engine (R140). -/
theorem exec_completes (i : Instr) {s : State} (hs : s.constructed = true) : ∃ t, exec i s = .next t := by
  cases i with
  | new m => exact ⟨_, exec_new m s⟩
  | reset => exact ⟨_, exec_reset_next.2 ⟨hs, rfl⟩⟩
  | absorb m => exact ⟨_, exec_absorb_next.2 ⟨hs, rfl⟩⟩
  | finalize r din => exact ⟨_, exec_finalize_next.2 ⟨hs, rfl⟩⟩

/-- Settles O34: there is no fault to answer, an accepted word is one the encoder writes and so decodes, and what it decodes
to completes. -/
theorem definedCommandsComplete : Obligations.DefinedCommandsComplete := by
  refine ⟨fun _ r => (nomatch r), fun s c rest hp hwf hs => ?_⟩
  obtain ⟨i, hdecode⟩ := exists_decode_of_wellFormed hwf
  obtain ⟨t, hexec⟩ := exec_completes i (s := s.setPending rest) hs
  exact ⟨i, t, hdecode, (step_command hp hdecode).trans hexec, hexec⟩

end Sys2Proof.Machine
end

section
/-! PROOFS of the statements on the encoding (spec/30_encoding.md): the two round trips (O19, O20), the defined words (O21),
the reserved words (O22) and the spec's vectors (O18). All but the first rest on one equivalence: a transaction decodes to a
command exactly when its word is the command's word and its DIN is the command's block. -/

namespace Sys2Proof.Machine

/-- Settles O19: a word that the encoder writes selects the row of its command and no row before it. -/
theorem decodeOfEncode : Obligations.DecodeOfEncode := decode_encode_eq

/-! ### What a word that selects a row is -/

/-- A word that selects a row is the row's pattern, with the word's own bits where the mask is 0 (R67). -/
theorem eq_pattern_or_of_selects {w : CmdWord} {row : OpcodeRow} (h : selects w row = true) :
    w = row.pattern ||| (w &&& ~~~row.mask) := by
  rw [← beq_iff_eq.1 h, ← BitVec.and_or_distrib_left, BitVec.or_not_self, BitVec.and_allOnes]

/-- A word that selects a row without open bits is the row's pattern (R67). -/
theorem eq_pattern_of_selects {w : CmdWord} {row : OpcodeRow} (h : selects w row = true) (hmask : ~~~row.mask = 0#16) :
    w = row.pattern := by
  have hw := eq_pattern_or_of_selects h
  rwa [hmask, BitVec.and_zero, BitVec.or_zero] at hw

/-- The one bit that the row NEW leaves open is the MODE bit (R64, R67). -/
theorem encode_new_cmd_of_selects {w : CmdWord} (h : selects w rowNew = true) :
    (encode (.new (modeOperand w))).cmd = w := by
  have hopen : w &&& ~~~rowNew.mask = (BitVec.ofBool (w.getLsbD 0)).setWidth 16 :=
    BitVec.and_one_eq_setWidth_ofBool_getLsbD
  have hword : ∀ b, (encode (.new (modeOfBit b))).cmd = rowNew.pattern ||| (BitVec.ofBool b).setWidth 16 := by decide
  rw [modeOperand, hword, ← hopen]
  exact (eq_pattern_or_of_selects h).symm

/-- The six bits that the row FINALIZE leaves open are the tail length (R65, R67). -/
theorem encode_finalize_cmd_of_selects {w : CmdWord} (h : selects w rowFinalize = true) (din : Block) :
    (encode (.finalize (tailLength w) din)).cmd = w := by
  have hmask : ∀ i < 16, (~~~rowFinalize.mask).getLsbD i = decide (i < 6) := by decide
  have hopen : w &&& ~~~rowFinalize.mask = (tailLength w).setWidth 16 := bitVec_ext fun i hi => by
    rw [BitVec.getLsbD_and, hmask i hi, tailLength, BitVec.getLsbD_setWidth, BitVec.getLsbD_extractLsb', Nat.zero_add,
      decide_eq_true hi, Bool.true_and, Bool.and_comm]
  rw [encode_finalize, ← hopen]
  exact (eq_pattern_or_of_selects h).symm

/-! ### What a transaction decodes to -/

/-- The command's block operand, where it has one, is the DIN of the transaction (R62, R66). -/
def OperandIsDin (din : Block) : Instr → Prop
  | .new _ => True
  | .reset => True
  | .absorb m => m = din
  | .finalize _ d => d = din

/-- A command is decoded from its own word and block (R61, R62, R67). -/
theorem decode_of_encode_cmd {c : Transaction} {i : Instr} (hcmd : (encode i).cmd = c.cmd) (hdin : OperandIsDin c.din i) :
    decode c = .ok i := by
  obtain ⟨w, din⟩ := c
  subst hcmd
  cases i with
  | new m =>
    have hmode : modeOperand (encode (.new m)).cmd = m := by cases m <;> rfl
    rw [decode, if_pos (newWord_selects m), hmode]
  | reset =>
    obtain ⟨hnew, hreset⟩ := resetWord_selects
    rw [decode, if_neg hnew, if_pos hreset]
  | absorb m =>
    obtain rfl : m = din := hdin
    exact decode_encode_eq (.absorb m)
  | finalize r d =>
    obtain rfl : d = din := hdin
    exact decode_encode_eq (.finalize r d)

/-- A transaction decodes to a command exactly when it has the command's word and block (R61, R62, R67). -/
theorem decode_eq_ok_iff {c : Transaction} {i : Instr} :
    decode c = .ok i ↔ (encode i).cmd = c.cmd ∧ OperandIsDin c.din i := by
  refine ⟨fun h => ?_, fun ⟨hcmd, hdin⟩ => decode_of_encode_cmd hcmd hdin⟩
  unfold decode at h
  split at h
  next hsel => cases h; exact ⟨encode_new_cmd_of_selects hsel, trivial⟩
  split at h
  next hsel => cases h; exact ⟨(eq_pattern_of_selects hsel rfl).symm, trivial⟩
  split at h
  next hsel => cases h; exact ⟨(eq_pattern_of_selects hsel rfl).symm, rfl⟩
  split at h
  next hsel => cases h; exact ⟨encode_finalize_cmd_of_selects hsel c.din, rfl⟩
  next => cases h

/-- Settles O20: the word by the equivalence; where the command has no block, the equivalence asks nothing of DIN. -/
theorem encodeOfDecode : Obligations.EncodeOfDecode := by
  intro c i h
  obtain ⟨hcmd, hdin⟩ := decode_eq_ok_iff.1 h
  refine ⟨hcmd, ?_, ?_, ?_⟩
  · rintro m rfl
    cases hdin
    exact congrArg (Transaction.mk · c.din) hcmd
  · rintro r din rfl
    cases hdin
    exact congrArg (Transaction.mk · c.din) hcmd
  · rintro (⟨m, rfl⟩ | rfl) d
    · exact decode_of_encode_cmd hcmd trivial
    · exact decode_of_encode_cmd hcmd trivial

/-! ### The defined words -/

/-- A word that selects a row of the opcode map has that row's operation: every mask covers the field OP (R67). -/
theorem opField_of_selects {w : CmdWord} {row : OpcodeRow} (hrow : row ∈ opcodeMap) (h : selects w row = true) :
    opField row.pattern = opField w := by
  have hmask : ∀ row ∈ opcodeMap, opField row.mask = BitVec.allOnes 4 := by decide
  rw [← beq_iff_eq.1 h, opField, BitVec.extractLsb'_and]
  exact (congrArg (opField w &&& ·) (hmask row hrow)).trans BitVec.and_allOnes

/-- At most one row is selected, because the rows have different operations (R67). -/
theorem length_filter_selects_le_one (w : CmdWord) : (opcodeMap.filter (selects w)).length ≤ 1 := by
  have honce : ∀ op : BitVec 4, opcodeMap.countP (fun row => opField row.pattern == op) ≤ 1 := by decide
  rw [← List.countP_eq_length_filter]
  exact (List.countP_mono_left fun row hrow h => beq_iff_eq.2 (opField_of_selects hrow h)).trans (honce (opField w))

/-- The word of FINALIZE as a number (R61, R67). -/
theorem toNat_encode_finalize_cmd (r : BitVec 6) (din : Block) :
    (encode (.finalize r din)).cmd.toNat = 0x4000 + r.toNat := by
  have hword : ∀ r : BitVec 6, (cmdWord 0x4 (0#2 ++ r)).toNat = 0x4000 + r.toNat := by decide
  exact hword r

/-- Settles O21: the rows by their operations, and each command's words by the equivalence. -/
theorem definedCommandWords : Obligations.DefinedCommandWords := by
  refine ⟨length_filter_selects_le_one, fun c => ⟨fun m => ?_, ?_, fun m => ?_, fun r din => ?_⟩⟩ <;>
    rw [decode_eq_ok_iff, ← BitVec.toNat_inj, OperandIsDin, eq_comm (b := c.cmd.toNat)]
  · cases m with
    | h256 => simp [encode, cmdWord, modeBit]
    | h512 => simp [encode, cmdWord, modeBit]
  · exact Iff.of_eq (and_true _)
  · exact Iff.rfl
  · rw [toNat_encode_finalize_cmd]

/-! ### The reserved words -/

/-- A word is that of a command exactly when the field layout accepts it (R61, R67, R68). -/
theorem exists_decode_iff_wellFormed {c : Transaction} : (∃ i, decode c = .ok i) ↔ c.wellFormed = true := by
  refine ⟨fun ⟨i, h⟩ => ?_, exists_decode_of_wellFormed⟩
  rw [Transaction.wellFormed, ← (decode_eq_ok_iff.1 h).1]
  cases i with
  | new m => exact Laws.EncodesWellFormed.new m
  | reset => exact Laws.EncodesWellFormed.reset
  | absorb m => exact Laws.EncodesWellFormed.absorb m
  | finalize r din => exact Laws.EncodesWellFormed.finalize r din

/-- No command is refused as a reserved word (R68). -/
theorem exec_ne_reservedCommand (i : Instr) (s : State) (why : Reserved) : exec i s ≠ .refused (.reservedCommand why) := by
  cases hs : s.constructed with
  | true =>
    obtain ⟨t, ht⟩ := exec_completes i hs
    rw [ht]
    nofun
  | false =>
    cases i with
    | new m => nofun
    | reset => exact fun h => nomatch (whenConstructed_of_not _ hs).symm.trans h
    | absorb m => exact fun h => nomatch (whenConstructed_of_not _ hs).symm.trans h
    | finalize r din => exact fun h => nomatch (whenConstructed_of_not _ hs).symm.trans h

/-- A step is refused for a reserved word exactly when the field layout rejects the word, whatever the state (R68, R145). -/
theorem step_reservedCommand_iff {s : State} {c : Transaction} {rest : List HostInput}
    (hp : s.pending = .command c :: rest) :
    (∃ why, step s = .refused (.reservedCommand why)) ↔ ¬ c.wellFormed = true := by
  rw [← exists_decode_iff_wellFormed]
  cases hd : decode c with
  | ok i =>
    rw [step_command hp hd]
    exact ⟨fun ⟨why, h⟩ => absurd h (exec_ne_reservedCommand i _ why), fun h => absurd ⟨i, rfl⟩ h⟩
  | error why =>
    rw [step_reserved hp hd]
    exact ⟨fun _ h => (by obtain ⟨i, hi⟩ := h; cases hi), fun _ => ⟨why, rfl⟩⟩

theorem toNat_opField (w : CmdWord) : (opField w).toNat = w.toNat / 4096 := by
  have hlt := w.isLt
  rw [opField, BitVec.extractLsb'_toNat, Nat.shiftRight_eq_div_pow]
  omega

theorem toNat_zField (w : CmdWord) : (zField w).toNat = w.toNat / 256 % 16 := by
  rw [zField, BitVec.extractLsb'_toNat, Nat.shiftRight_eq_div_pow]

theorem toNat_argField (w : CmdWord) : (argField w).toNat = w.toNat % 256 := by
  rw [argField, BitVec.extractLsb'_toNat, Nat.shiftRight_zero]

/-- The operation is defined when OP, as a number, is 1 to 4 (R61, R67). -/
theorem opDefined_iff (w : CmdWord) : opDefined w = true ↔ 1 ≤ w.toNat / 4096 ∧ w.toNat / 4096 ≤ 4 := by
  rw [opDefined, Bool.and_eq_true, decide_eq_true_iff, decide_eq_true_iff, toNat_opField]

/-- Z is clear when, as a number, it is 0 (R61). -/
theorem zClear_iff (w : CmdWord) : zClear w = true ↔ w.toNat / 256 % 16 = 0 := by
  rw [zClear, beq_iff_eq, ← BitVec.toNat_inj, toNat_zField]
  exact Iff.rfl

/-- The reserved bits of ARG are clear when the number above the operand bits is 0 (R61). -/
theorem argReservedClear_iff (w : CmdWord) : argReservedClear w = true ↔
    (w.toNat / 4096 = 1 → w.toNat % 256 / 2 = 0) ∧
    (w.toNat / 4096 = 2 ∨ w.toNat / 4096 = 3 → w.toNat % 256 = 0) ∧
    (w.toNat / 4096 = 4 → w.toNat % 256 / 64 = 0) := by
  rw [argReservedClear, toNat_opField]
  split
  next hop => simp [hop, ← BitVec.toNat_inj, toNat_argField, Nat.shiftRight_eq_div_pow]
  next hop => simp [hop, ← BitVec.toNat_inj, toNat_argField]
  next hop => simp [hop, ← BitVec.toNat_inj, toNat_argField]
  next hop => simp [hop, ← BitVec.toNat_inj, toNat_argField, Nat.shiftRight_eq_div_pow]
  next h1 h2 h3 h4 =>
    exact iff_of_true rfl ⟨fun h => (h1 h).elim, fun h => (h.elim h2 h3).elim, fun h => (h4 h).elim⟩

/-- Settles O22: the field layout's three conditions as numbers. -/
theorem reservedWordsRefused : Obligations.ReservedWordsRefused := by
  intro s c rest hp
  rw [step_reservedCommand_iff hp, Transaction.wellFormed, wellFormedCmd, Bool.and_eq_true, Bool.and_eq_true,
    opDefined_iff, zClear_iff, argReservedClear_iff]
  dsimp only
  omega

/-! ### The spec's vectors -/

/-- A word that the field layout rejects is decoded to the first reason that holds of it (R68, R69). -/
theorem decode_of_reserved {w : CmdWord} {why : Reserved} (din : Block) (h : wellFormedCmd w = false)
    (hwhy : reservedReason w = why) : decode { cmd := w, din := din } = .error why := by
  have hno : ¬∃ i, decode { cmd := w, din := din } = .ok i := by
    rw [exists_decode_iff_wellFormed, Transaction.wellFormed, h]
    exact Bool.false_ne_true
  unfold decode at hno ⊢
  split_ifs at hno ⊢
  case neg => rw [hwhy]
  all_goals exact absurd ⟨_, rfl⟩ hno

/-- Settles O18: the seven defined words are the encoder's, and the field layout rejects the nine others. -/
theorem knownWordsDecode : Obligations.KnownWordsDecode := fun d =>
  ⟨decode_of_encode_cmd rfl trivial, decode_of_encode_cmd rfl trivial, decode_of_encode_cmd rfl trivial,
    decode_of_encode_cmd rfl rfl, decode_of_encode_cmd rfl rfl, decode_of_encode_cmd rfl rfl, decode_of_encode_cmd rfl rfl,
    decode_of_reserved d rfl rfl, decode_of_reserved d rfl rfl, decode_of_reserved d rfl rfl, decode_of_reserved d rfl rfl,
    decode_of_reserved d rfl rfl, decode_of_reserved d rfl rfl, decode_of_reserved d rfl rfl, decode_of_reserved d rfl rfl,
    decode_of_reserved d rfl rfl⟩

end Sys2Proof.Machine
end

section
/-! PROOFS of the statements on one step and the four commands (spec/10_state.md, spec/44_commands.md,
spec/60_exceptions.md R141, spec/70_reset_and_hazards.md R160): the invariant (O43, O44), what a step runs (O23), NEW and
RESET (O24, O25), what has a meaning before the first NEW and after hardware reset (O30, O31), what FINALIZE leaves (O32),
the frame of the commands (O33), and what only one command can do (O36, O38, O39). -/

namespace Sys2Proof.Machine

/-! ### The invariant -/

/-- Adding a multiple of 8 keeps N a count of whole bytes (R22). -/
theorem toNat_add512le_blk_mod_eight {N : Block} (hN : N.toNat % 8 = 0) {v : Nat} (hv : v % 8 = 0) :
    (add512le N (blk v)).toNat % 8 = 0 := by
  rw [toNat_add512le, toNat_blk]
  omega

/-- A constructed engine meets the invariant by its first and third clause. -/
theorem Inv.of_constructed {s : State} (hs : s.constructed = true) (hN : s.N.toNat % 8 = 0)
    (hdigests : ∀ r ∈ s.responses, ∃ m, r.digest = digestBytes m r.dout) : Inv s :=
  ⟨fun _ => hN, fun h => absurd (h.symm.trans hs) Bool.false_ne_true, hdigests⟩

/-- What the host has still to do is not part of the invariant. -/
theorem Inv.setPending {s : State} (h : Inv s) (inputs : List HostInput) : Inv (s.setPending inputs) :=
  ⟨h.wholeBytes, h.silentBeforeNew, h.digestsSelected⟩

/-- An engine that is not constructed meets the invariant once it has delivered nothing, whatever its registers hold. -/
theorem Inv.of_silent {s : State} (hs : s.constructed = false) (hresponses : s.responses = []) : Inv s :=
  ⟨fun h => absurd (hs.symm.trans h) Bool.false_ne_true, fun _ => hresponses, by
    rw [hresponses]
    exact fun _ hr => absurd hr List.not_mem_nil⟩

/-- The zero that NEW and RESET put in N is a count of whole bytes (R22). -/
theorem toNat_zero_mod_eight : (0 : Block).toNat % 8 = 0 := by
  rw [BitVec.ofNat_eq_ofNat, BitVec.toNat_zero]

theorem inv_new {s : State} (h : Inv s) (m : Mode) : Inv (initialise m (s.setMode m)).setConstructed :=
  .of_constructed rfl toNat_zero_mod_eight h.digestsSelected

theorem inv_initialise {s : State} (h : Inv s) (hs : s.constructed = true) (m : Mode) : Inv (initialise m s) :=
  .of_constructed hs toNat_zero_mod_eight h.digestsSelected

theorem inv_absorbBlock {s : State} (h : Inv s) (hs : s.constructed = true) (m : Block) : Inv (absorbBlock m s) :=
  .of_constructed hs (toNat_add512le_blk_mod_eight (h.wholeBytes hs) rfl) h.digestsSelected

theorem inv_finalizeTail {s : State} (h : Inv s) (hs : s.constructed = true) (r : BitVec 6) (din : Block) :
    Inv (finalizeTail r din s) := by
  refine .of_constructed hs (toNat_add512le_blk_mod_eight (h.wholeBytes hs) (Nat.mul_mod_right 8 _)) fun out hout => ?_
  rw [finalizeTail_responses, List.mem_append, List.mem_singleton] at hout
  obtain hold | rfl := hout
  · exact h.digestsSelected out hold
  · exact ⟨s.mode, rfl⟩

/-- Every command keeps the invariant. -/
theorem exec_keeps_inv {i : Instr} {s t : State} (hinv : Inv s) (h : exec i s = .next t) : Inv t := by
  obtain ⟨m, -, rfl⟩ | ⟨-, hs, rfl⟩ | ⟨m, -, hs, rfl⟩ | ⟨r, din, -, hs, rfl⟩ := exec_cases h
  · exact inv_new hinv m
  · exact inv_initialise hinv hs s.mode
  · exact inv_absorbBlock hinv hs m
  · exact inv_finalizeTail hinv hs r din

/-- Settles O43: hardware reset establishes the invariant, and each of the four commands keeps it. -/
theorem stepKeepsInvariant : Obligations.StepKeepsInvariant := by
  intro s t hinv hstep
  obtain ⟨rest, -, rfl⟩ | ⟨c, rest, i, -, -, hexec⟩ := step_cases hstep
  · exact .of_silent rfl rfl
  · exact exec_keeps_inv (hinv.setPending rest) hexec

/-- Settles O44: after reset the engine is not constructed and has delivered nothing, so the registers do not matter. -/
theorem resetMeetsInvariant : Obligations.ResetMeetsInvariant := Inv.of_silent rfl rfl

/-! ### One step, and the initialising commands -/

/-- Settles O23: the four things a host can have next. -/
theorem stepRunsDecodedCommand : Obligations.StepRunsDecodedCommand := fun _ _ =>
  ⟨fun _ _ hp hd => step_command hp hd, fun _ _ hp hd => step_reserved hp hd, step_hardwareReset, step_noCommand⟩

/-- On a constructed engine of mode m, NEW m is RESET (R120, R121). -/
theorem exec_new_eq_exec_reset {m : Mode} {s : State} (hs : s.constructed = true) (hm : s.mode = m) :
    exec (.new m) s = exec .reset s := by
  obtain ⟨mode, h, N, sigma, constructed, pending, responses, resets⟩ := s
  cases hs
  cases hm
  rfl

/-- Settles O24: NEW writes all four registers and `constructed`, and so reads none of them. -/
theorem newConstructs : Obligations.NewConstructs := fun m s =>
  ⟨exec_new m s, fun _ _ _ _ _ => rfl, exec_new_eq_exec_reset⟩

/-- RESET before the first NEW is refused (R33). -/
theorem exec_reset_refused {s : State} (hs : s.constructed = false) : exec .reset s = .refused .notConstructed :=
  whenConstructed_of_not _ hs

theorem exec_absorb_refused {s : State} (hs : s.constructed = false) (m : Block) :
    exec (.absorb m) s = .refused .notConstructed := whenConstructed_of_not _ hs

theorem exec_finalize_refused {s : State} (hs : s.constructed = false) (r : BitVec 6) (din : Block) :
    exec (.finalize r din) s = .refused .notConstructed := whenConstructed_of_not _ hs

/-- Directly after NEW, RESET changes nothing (R135). -/
theorem exec_reset_after_new (m : Mode) (s : State) :
    exec .reset (initialise m (s.setMode m)).setConstructed = .next (initialise m (s.setMode m)).setConstructed := rfl

/-- Settles O25: RESET writes what NEW writes but MODE, and writing it again changes nothing. -/
theorem resetReinitialises : Obligations.ResetReinitialises := by
  refine fun s => ⟨fun hs => exec_reset_next.2 ⟨hs, rfl⟩, exec_reset_refused, fun t h => ?_, fun m t h => ?_⟩
  · obtain ⟨hs, rfl⟩ := exec_reset_next.1 h
    exact exec_reset_next.2 ⟨hs, rfl⟩
  · rw [exec_new, Host.Outcome.next.injEq] at h
    subst h
    exact exec_reset_after_new m s

/-! ### Before the first NEW and after hardware reset -/

/-- Before the first NEW every command but NEW is refused (R33, R141). -/
theorem exec_refused_of_not_constructed {s : State} (hs : s.constructed = false) {i : Instr} (hi : ∀ m, i ≠ .new m) :
    exec i s = .refused .notConstructed := by
  cases i with
  | new m => exact absurd rfl (hi m)
  | reset => exact exec_reset_refused hs
  | absorb m => exact exec_absorb_refused hs m
  | finalize r din => exact exec_finalize_refused hs r din

/-- Settles O30: NEW answers init(m) from any state, and the check of `constructed` refuses the other three. -/
theorem onlyNewBeforeConstruction : Obligations.OnlyNewBeforeConstruction := fun s hs =>
  ⟨fun m => exec_new m s, exec_reset_refused hs, exec_absorb_refused hs, exec_finalize_refused hs⟩

/-- Settles O31: hardware reset clears `constructed`, and then only NEW has a meaning. -/
theorem hardwareResetUnconstructs : Obligations.HardwareResetUnconstructs := by
  refine ⟨rfl, rfl, rfl, fun s rest hp => ⟨_, step_hardwareReset hp, rfl, rfl, fun i hi => ?_, fun m => ?_⟩⟩
  · exact exec_refused_of_not_constructed rfl hi
  · exact ⟨_, exec_new m _, rfl, rfl, rfl, rfl⟩

/-! ### After FINALIZE -/

/-- Settles O32: FINALIZE leaves the engine constructed, so the next ABSORB and FINALIZE answer by their rules. -/
theorem commandsAfterFinalizeExecute : Obligations.CommandsAfterFinalizeExecute := by
  intro r din s hs
  have ht : (finalizeTail r din s).constructed = true := hs
  refine ⟨finalizeTail r din s, exec_finalize_next.2 ⟨hs, rfl⟩, finalizeTail_mode r din s, finalizeTail_responses r din s,
    fun m => ?_, fun r' din' => ?_⟩
  · exact ⟨_, exec_absorb_next.2 ⟨ht, rfl⟩, absorbBlock_h m _⟩
  · exact ⟨_, exec_finalize_next.2 ⟨ht, rfl⟩, finalizeTail_N r' din' _, finalizeTail_sigma r' din' _⟩

/-! ### What a command leaves unchanged -/

/-- A command leaves the count of hardware resets. -/
theorem exec_resets {i : Instr} {s t : State} (h : exec i s = .next t) : t.resets = s.resets := by
  obtain ⟨m, -, rfl⟩ | ⟨-, -, rfl⟩ | ⟨m, -, -, rfl⟩ | ⟨r, din, -, -, rfl⟩ := exec_cases h <;> simp

/-- A command leaves the engine constructed (R33). -/
theorem exec_constructed {i : Instr} {s t : State} (h : exec i s = .next t) : t.constructed = true := by
  obtain ⟨m, -, rfl⟩ | ⟨-, hs, rfl⟩ | ⟨m, -, hs, rfl⟩ | ⟨r, din, -, hs, rfl⟩ := exec_cases h
  · rfl
  · exact hs
  · exact hs
  · exact hs

/-- A command other than NEW leaves MODE (R27). -/
theorem exec_mode {i : Instr} {s t : State} (h : exec i s = .next t) (hi : ∀ m, i ≠ .new m) : t.mode = s.mode := by
  obtain ⟨m, rfl, -⟩ | ⟨-, -, rfl⟩ | ⟨m, -, -, rfl⟩ | ⟨r, din, -, -, rfl⟩ := exec_cases h
  · exact absurd rfl (hi m)
  · rfl
  · rfl
  · rfl

/-- A command other than FINALIZE delivers nothing (R24, R29). -/
theorem exec_responses {i : Instr} {s t : State} (h : exec i s = .next t) (hi : ∀ r din, i ≠ .finalize r din) :
    t.responses = s.responses := by
  obtain ⟨m, -, rfl⟩ | ⟨-, -, rfl⟩ | ⟨m, -, -, rfl⟩ | ⟨r, din, rfl, -⟩ := exec_cases h
  · rfl
  · rfl
  · rfl
  · exact absurd rfl (hi r din)

/-- FINALIZE delivers the h it leaves, once, with the digest that MODE selects (R29, R127). -/
theorem exec_finalize_responses {r : BitVec 6} {din : Block} {s t : State} (h : exec (.finalize r din) s = .next t) :
    t.responses = s.responses ++ [{ dout := t.h, digest := digestBytes t.mode t.h }] := by
  obtain ⟨-, rfl⟩ := exec_finalize_next.1 h
  exact finalizeTail_responses r din s

/-- Settles O33: one fact for each field that a command can leave. -/
theorem commandFrame : Obligations.CommandFrame := by
  refine fun i s t h => ⟨exec_pending h, exec_resets h, exec_constructed h, exec_mode h, exec_responses h, ?_⟩
  rintro r din rfl
  exact ⟨_, exec_finalize_responses h, rfl⟩

/-! ### What only one command can do -/

/-- Settles O36: a command other than NEW leaves MODE, and NEW m leaves it at m. -/
theorem modeChangesOnlyByNew : Obligations.ModeChangesOnlyByNew := by
  intro s t hstep hne
  obtain ⟨rest, hp, -⟩ | ⟨c, rest, i, hp, hd, hexec⟩ := step_cases hstep
  · exact .inl ⟨rest, hp⟩
  · by_cases hi : ∃ m, i = .new m
    · obtain ⟨m, rfl⟩ := hi
      rw [exec_new, Host.Outcome.next.injEq] at hexec
      subst hexec
      exact .inr ⟨c, rest, hp, hd⟩
    · exact absurd (exec_mode hexec (not_exists.1 hi)) hne

/-- Settles O38: every command leaves the engine constructed, and NEW alone does so from an engine that is not. -/
theorem constructedOnlyByNew : Obligations.ConstructedOnlyByNew := by
  intro s t hstep
  obtain ⟨rest, hp, rfl⟩ | ⟨c, rest, i, hp, hd, hexec⟩ := step_cases hstep
  · exact ⟨iff_of_true rfl ⟨rest, hp⟩, fun _ => nofun⟩
  · refine ⟨iff_of_false (by rw [exec_constructed hexec]; nofun) (by rw [hp]; nofun), fun hs _ => ?_⟩
    by_cases hi : ∃ m, i = .new m
    · obtain ⟨m, rfl⟩ := hi
      rw [exec_new, Host.Outcome.next.injEq] at hexec
      subst hexec
      exact ⟨c, rest, hp, hd, rfl, rfl, rfl⟩
    · have hrefused := exec_refused_of_not_constructed (s := s.setPending rest) hs (not_exists.1 hi)
      rw [hrefused] at hexec
      cases hexec

/-- Settles O39: the step executes what the word decodes to, and the two facts on responses cover every command. -/
theorem responsesOnlyByFinalize : Obligations.ResponsesOnlyByFinalize := by
  intro s t c rest hp hstep
  cases hd : decode c with
  | error why => rw [step_reserved hp hd] at hstep; cases hstep
  | ok i =>
    rw [step_command hp hd] at hstep
    constructor
    · rintro ⟨r, din, hfin⟩
      cases hfin
      exact exec_finalize_responses (s := s.setPending rest) hstep
    · exact fun hno => exec_responses (s := s.setPending rest) hstep fun r din hi => hno r din (congrArg _ hi)

end Sys2Proof.Machine
end

section
/-! PROOFS of the statements on the tables and LPSX (spec/40_constants.md, spec/41_lps_table.md, spec/42_primitives.md R101):
the S-box and the spaces (O6, O7), S, P and L (O8, O9, O10), the rows of T (O12), LPSX (O14, O15) and the is_zero operand of
g (O17). The values of the tables enter by a few evaluated facts only; what follows from them is linearity of l. -/

namespace Sys2Proof.Machine

/-! ### The tables -/

/-- No byte stands twice in the table of π (R80). -/
theorem piTable_nodup : (piLow ++ piHigh).Nodup := by decide +kernel

theorem piTable_length : (piLow ++ piHigh).length = 256 := by decide +kernel

/-- π is injective (R80). -/
theorem sbox_injective : Function.Injective sbox := by
  intro b c h
  have hb : b.toNat < (piLow ++ piHigh).length := piTable_length ▸ b.isLt
  have hc : c.toNat < (piLow ++ piHigh).length := piTable_length ▸ c.isLt
  rw [sbox_eq, sbox_eq, List.getD_eq_getElem _ _ hb, List.getD_eq_getElem _ _ hc] at h
  exact BitVec.eq_of_toNat_eq ((piTable_nodup.getElem_inj_iff).1 h)

theorem sbox_a5 : sbox 0xa5 = 0 := by decide +kernel

/-- π gives 0x00 only at 0xa5 (R80). -/
theorem sbox_eq_zero_iff (b : Byte) : sbox b = 0 ↔ b = 0xa5 := by
  rw [← sbox_a5, sbox_injective.eq_iff]

/-- Settles O6: π is injective on a finite type; the rest is read off its 256 entries. -/
theorem sboxIsPermutation : Obligations.SboxIsPermutation :=
  ⟨Finite.injective_iff_bijective.1 sbox_injective, by decide +kernel, sbox_eq_zero_iff, by decide +kernel, by decide +kernel,
    by decide +kernel, by decide +kernel, by decide +kernel⟩

/-- Settles O7: each read gives the word that was listed there. -/
theorem constantSpacesHoldTables : Obligations.ConstantSpacesHoldTables := by
  refine ⟨piTable_length, by decide +kernel, by decide +kernel, sbox_eq, fun j _ => rowA_eq j, fun i k _ _ hk => ?_⟩
  rw [roundConst, lane_ofLanes _ _ hk, roundLane_eq]

/-! ### S and P -/

@[simp] theorem blockByte_zero (n : Nat) : blockByte 0 n = 0 := by
  refine bitVec_ext fun i _ => ?_
  simp [getLsbD_blockByte]

@[simp] theorem laneByte_zero (p : Nat) : laneByte 0 p = 0 := by
  refine bitVec_ext fun i _ => ?_
  simp [getLsbD_laneByte]

/-- S of a block is injective because it is π on every byte (R90). -/
theorem subS_injective : Function.Injective subS := by
  intro x y h
  refine block_ext_bytes fun n hn => sbox_injective ?_
  rw [← blockByte_subS x hn, ← blockByte_subS y hn, h]

/-- S of a block with 64 equal bytes (R90). -/
theorem subS_eq_of_bytes {x : Block} {b c : Byte} (hx : ∀ n < 64, blockByte x n = b) (hc : sbox b = c) :
    subS x = ofBytes fun _ => c := by
  refine block_ext_bytes fun n hn => ?_
  rw [blockByte_subS x hn, hx n hn, hc, blockByte_ofBytes _ _ hn]

/-- The zero block by its bytes (R40). -/
theorem ofBytes_zero : (ofBytes fun _ => 0) = 0 :=
  block_ext_bytes fun n hn => by rw [blockByte_ofBytes _ _ hn, blockByte_zero]

/-- Settles O8: byte by byte, S is π. -/
theorem substitutionActsOnEveryByte : Obligations.SubstitutionActsOnEveryByte := by
  refine ⟨fun x n hn => blockByte_subS x hn, Finite.injective_iff_bijective.1 subS_injective, ?_, ?_, ?_⟩
  · exact subS_eq_of_bytes (fun n hn => blockByte_ofBytes _ n hn) (by decide +kernel)
  · exact subS_eq_of_bytes (fun n _ => blockByte_zero n) (by decide +kernel)
  · exact (subS_eq_of_bytes (fun n hn => blockByte_ofBytes _ n hn) sbox_a5).trans ofBytes_zero

/-- P is its own inverse (R91). -/
theorem permP_permP (x : Block) : permP (permP x) = x := by
  refine block_ext_bytes fun n hn => ?_
  have hi : n % 8 < 8 := by omega
  have hj : n / 8 < 8 := by omega
  rw [← Nat.div_add_mod n 8, blockByte_permP _ hi hj, blockByte_permP _ hj hi]

/-- Settles O9: P exchanges the two coordinates of a byte; the example is evaluated on its eight lanes. -/
theorem permutationIsTranspose : Obligations.PermutationIsTranspose :=
  ⟨fun x => ⟨fun _ hi _ hj => blockByte_permP x hi hj, permP_permP x⟩, by decide +kernel⟩

/-! ### Linear maps of a lane given by the images of its bits -/

/-- The linear map of a lane that sends bit n to rows n. -/
def linearMap (rows : Nat → Lane) (w : Lane) : Lane := xorOver (fun n => if w.getLsbD n then rows n else 0) 64

/-- l is the linear map that sends bit n to A[63 - n] (R92). -/
theorem linLane_eq_linearMap : linLane = linearMap fun n => rowA (63 - n) := rfl

theorem linearMap_zero (rows : Nat → Lane) : linearMap rows 0 = 0 := xorOver_zero fun n _ => by simp

/-- A row selected by the exclusive or of two bits. -/
theorem selected_xor (b c : Bool) (row : Lane) :
    (if b ^^ c then row else 0) = (if b then row else 0) ^^^ (if c then row else 0) := by
  cases b <;> cases c <;> simp

theorem linearMap_xor (rows : Nat → Lane) (u v : Lane) :
    linearMap rows (u ^^^ v) = linearMap rows u ^^^ linearMap rows v := by
  rw [linearMap, linearMap, linearMap, ← xorOver_xor]
  exact xorOver_congr fun n _ => by rw [BitVec.getLsbD_xor, selected_xor]

/-- The bits of a lane with one bit set. -/
theorem getLsbD_one_shiftLeft {n p : Nat} (hp : p < 64) : ((1 : Lane) <<< n).getLsbD p = decide (p = n) := by
  have hone : (1 : Lane) <<< n = BitVec.twoPow 64 n := rfl
  rw [hone, BitVec.getLsbD_twoPow]
  by_cases h : p = n
  · subst h
    simp [hp]
  · simp [h, Ne.symm h]

theorem linearMap_one_shiftLeft (rows : Nat → Lane) {n : Nat} (hn : n < 64) : linearMap rows ((1 : Lane) <<< n) = rows n := by
  rw [linearMap, xorOver_single hn fun p hp hne => ?_]
  · rw [getLsbD_one_shiftLeft hn, decide_eq_true rfl, if_pos rfl]
  · rw [getLsbD_one_shiftLeft hp, decide_eq_false hne, if_neg Bool.false_ne_true]

/-- A linear map of an exclusive or of n lanes. -/
theorem linearMap_xorOver (rows f : Nat → Lane) (n : Nat) :
    linearMap rows (xorOver f n) = xorOver (fun i => linearMap rows (f i)) n := by
  induction n with
  | zero => exact linearMap_zero rows
  | succ n ih => rw [xorOver, linearMap_xor, ih, xorOver]

/-- Each of the first n bits of a lane, where it is set, at its place: the low n bits of the lane. -/
theorem getLsbD_xorOver_bits (w : Lane) {n i : Nat} (hi : i < 64) :
    (xorOver (fun p => if w.getLsbD p then (1 : Lane) <<< p else 0) n).getLsbD i = (decide (i < n) && w.getLsbD i) := by
  induction n with
  | zero => simp [xorOver]
  | succ n ih =>
    have hbit : (if w.getLsbD n then (1 : Lane) <<< n else 0).getLsbD i = (decide (i = n) && w.getLsbD i) := by
      split
      next hset => rw [getLsbD_one_shiftLeft hi]; by_cases h : i = n <;> simp [h, hset]
      next hclear => by_cases h : i = n <;> simp [h, hclear]
    have hbelow : (decide (i < n) ^^ decide (i = n)) = decide (i < n + 1) := by
      by_cases h : i = n
      · simp [h]
      · rw [decide_eq_false h, Bool.xor_false, decide_eq_decide]
        omega
    rw [xorOver, BitVec.getLsbD_xor, ih, hbit, ← Bool.and_xor_distrib_right, hbelow]

/-- A linear map that sends the image of every bit back to the bit undoes the first map. -/
theorem linearMap_leftInverse {rows back : Nat → Lane} (h : ∀ n < 64, linearMap back (rows n) = (1 : Lane) <<< n) :
    Function.LeftInverse (linearMap back) (linearMap rows) := by
  intro w
  rw [linearMap.eq_1 rows, linearMap_xorOver]
  refine bitVec_ext fun i hi => ?_
  rw [xorOver_congr (g := fun p => if w.getLsbD p then (1 : Lane) <<< p else 0), getLsbD_xorOver_bits w hi, decide_eq_true hi,
    Bool.true_and]
  intro n hn
  split
  next => exact h n hn
  next => exact linearMap_zero back

/-- The rows of the inverse of l: entry n is the lane whose image under l is bit n alone. -/
def inverseRows : List Lane :=
  [0xdc6e36e95e0a310b#64, 0xa5dc6ccfbc146216#64, 0x57a5d8836528c42c#64, 0xae57ad1bca509558#64, 0x41ae473689a037b0#64,
   0x82418e6c0f5d6e7d#64, 0x198201d81ebadcfa#64, 0x321902ad3c69a5e9#64, 0x49d9d1cb12a5f7b1#64, 0x92afbf8b2457f37f#64,
   0x3943630b48aefbfe#64, 0x7286c6169041ebe1#64, 0xe411912c3d82cbdf#64, 0xd5223f587a198ba3#64, 0xb7447eb0f4320b5b#64,
   0x7388fc7df56416b6#64, 0x32786fdea3a318a8#64, 0x64f0dea15b5b304d#64, 0xc8fda15fb6b6609a#64, 0x8de75fbe7171c029#64,
   0x07d3be61e2e29d52#64, 0x0ebb61c2d9d927a4#64, 0x1c6bc299afaf4e55#64, 0x38d6992f43439caa#64, 0x70256d11ef564e51#64,
   0xe04ada22c3ac9ca2#64, 0xdd94a9449b452559#64, 0xa7354f882b8a4ab2#64, 0x536a9e0d56099479#64, 0xa6d4211aac1235f2#64,
   0x51b5423445246af9#64, 0xa27784688a48d4ef#64, 0x9813d5ff7fe3f8ad#64, 0x2d26b7e3fedbed47#64, 0x5a4c73dbe1abc78e#64,
   0xb498e6abdf4b9301#64, 0x752dd14ba3963b02#64, 0xea5abf965b317604#64, 0xc9b46331b662ec08#64, 0x8f75c66271c4c510#64,
   0x91073f14f6277fd0#64, 0x3f0e7e28f14efebd#64, 0x7e1cfc50ff9ce167#64, 0xfc38e5a0e325dfce#64, 0xe570d75ddb4aa381#64,
   0xd7e0b3baab945b1f#64, 0xb3dd7b694b35b63e#64, 0x7ba7f6d2966a717c#64, 0xabf2017c29f19997#64, 0x4bf902f852ff2f33#64,
   0x96ef04eda4e35e66#64, 0x31c308c755dbbccc#64, 0x629b1093aaab6585#64, 0xc42b203b494bca17#64, 0x955640769296892e#64,
   0x37ac80ec39310f5c#64, 0xffb3d920c3520bec#64, 0xe37baf409ba416c5#64, 0xdbf643802b552c97#64, 0xabf1861d56aa5833#64,
   0x4bff113aac49b066#64, 0x96e3227445927dcc#64, 0x31db44e88a39fa85#64, 0x62ab88cd0972e917#64]

/-- The listed rows invert l on every row of A (R81). -/
theorem linearMap_inverseRows_rowA :
    ∀ n < 64, linearMap (fun k => inverseRows.getD k 0) (rowA (63 - n)) = (1 : Lane) <<< n := by decide +kernel

/-- l is injective (R81). -/
theorem linLane_injective : Function.Injective linLane := by
  rw [linLane_eq_linearMap]
  exact (linearMap_leftInverse linearMap_inverseRows_rowA).injective

/-- Settles O10: l is the linear map of the rows of A, and the inverse matrix is listed. -/
theorem linearLayer : Obligations.LinearLayer := by
  refine ⟨fun _ => rfl, fun n hn => linearMap_one_shiftLeft _ hn, linearMap_xor _, linearMap_zero _,
    Finite.injective_iff_bijective.1 linLane_injective, fun x k hk => lane_linL x hk, ?_, ?_, ?_, ?_⟩ <;> decide +kernel

/-! ### The rows of T -/

/-- The image of a byte with one bit set is one row of A (R93). -/
theorem byteImage_one_shiftLeft (i : Nat) {k : Nat} (hk : k < 8) : byteImage i ((1 : Byte) <<< k) = rowA (63 - k - 8 * i) := by
  have hbits : ∀ k < 8, ∀ p < 8, ((1 : Byte) <<< k).getLsbD p = decide (p = k) := by decide
  rw [byteImage, xorOver_single hk fun p hp hne => ?_]
  · rw [hbits k hk k hk, decide_eq_true rfl, if_pos rfl]
  · rw [hbits k hk p hp, decide_eq_false hne, if_neg Bool.false_ne_true]

/-- What a byte adds to the image of its lane is linear (R93). -/
theorem byteImage_xor (i : Nat) (c d : Byte) : byteImage i (c ^^^ d) = byteImage i c ^^^ byteImage i d := by
  rw [byteImage, byteImage, byteImage, ← xorOver_xor]
  exact xorOver_congr fun n _ => by rw [BitVec.getLsbD_xor, selected_xor]

/-- A byte is determined by its image, because its lane is (R81, R93). -/
theorem byteImage_injective {i : Nat} (hi : i < 8) : Function.Injective (byteImage i) := by
  intro c d h
  rw [← linLane_shifted c hi, ← linLane_shifted d hi] at h
  rw [← laneByte_shifted_same c hi, linLane_injective h, laneByte_shifted_same d hi]

/-- Different bytes have different entries in a row of T (R96 c). -/
theorem tableT_injective {i : Nat} (hi : i < 8) : Function.Injective (tableT i) :=
  (byteImage_injective hi).comp sbox_injective

theorem tableT_a5 (i : Nat) : tableT i 0xa5 = 0 := by
  rw [tableT_eq_byteImage, sbox_a5, byteImage_zero]

/-- The entry at a byte whose π has one bit set is one row of A (R96 b). -/
theorem tableT_eq_rowA (i : Nat) {b : Byte} {k : Nat} (hk : k < 8) (hb : sbox b = (1 : Byte) <<< k) :
    tableT i b = rowA (63 - k - 8 * i) := by
  rw [tableT_eq_byteImage, hb, byteImage_one_shiftLeft i hk]

/-- Shifting an exclusive or of lanes. -/
theorem xorOver_shiftLeft (f : Nat → Lane) (n k : Nat) : xorOver f n <<< k = xorOver (fun p => f p <<< k) n := by
  induction n with
  | zero => exact BitVec.zero_shiftLeft k
  | succ n ih => rw [xorOver, BitVec.shiftLeft_xor_distrib, ih, xorOver]

/-- The 256 bytes of π cancel, as those of every permutation do (R96 d). -/
theorem xorOver_sbox : xorOver (fun n => (sbox (BitVec.ofNat 8 n)).setWidth 64) 256 = 0 := by decide +kernel

/-- The 256 entries of a row of T are the images of bytes that cancel (R96 d). -/
theorem xorOver_tableT {i : Nat} (hi : i < 8) : xorOver (fun n => tableT i (BitVec.ofNat 8 n)) 256 = 0 := by
  simp only [tableT_eq_byteImage, ← linLane_shifted _ hi, linLane_eq_linearMap]
  rw [← linearMap_xorOver, ← xorOver_shiftLeft, xorOver_sbox, BitVec.ofNat_eq_ofNat, BitVec.zero_shiftLeft]
  exact linearMap_zero _

/-- The lane that LPS gives where the eight bytes it reads are 0 (R96 e). -/
theorem xorOver_tableT_zero : xorOver (fun i => tableT i 0) 8 = 0xb383fc2eced4a574 := by decide +kernel

/-- Every lane of LPS of the zero block (R96 e). -/
theorem lane_linL_permP_subS_zero {k : Nat} (hk : k < 8) : lane (linL (permP (subS 0))) k = 0xb383fc2eced4a574 := by
  rw [lane_linL_permP_subS 0 hk, ← xorOver_tableT_zero]
  refine xorOver_congr fun i _ => ?_
  rw [lane_zero, laneByte_zero]

/-- Settles O12: a row of T is π followed by a map that is linear and injective. -/
theorem tableRowFacts : Obligations.TableRowFacts := by
  refine ⟨fun i hi => ⟨fun b => ?_, tableT_eq_rowA i (k := 0) (by decide) (by decide +kernel),
    ?_, tableT_injective hi, fun b b' b'' h => ?_, xorOver_tableT hi⟩, fun k hk => lane_linL_permP_subS_zero hk⟩
  · rw [← tableT_a5 i, (tableT_injective hi).eq_iff]
  · exact tableT_eq_rowA i (k := 7) (by decide) (by decide +kernel)
  · rw [tableT_eq_byteImage, tableT_eq_byteImage, ← byteImage_xor, h, tableT_eq_byteImage]

/-! ### LPSX -/

/-- Byte j of a lane is the low byte after a shift right by 8j (R101). -/
theorem laneByte_eq_laneByte_shiftRight (w : Lane) (j : Nat) : laneByte w j = laneByte (w >>> (8 * j)) 0 := by
  refine bitVec_ext fun i _ => ?_
  rw [getLsbD_laneByte, getLsbD_laneByte, BitVec.getLsbD_ushiftRight, Nat.mul_zero, Nat.zero_add]

theorem lpsx_comm (l r : Block) : lpsx l r = lpsx r l := by
  rw [lpsx_eq_linL_permP_subS, lpsx_eq_linL_permP_subS, xor512_eq_xor, xor512_eq_xor, BitVec.xor_comm]

/-- LPSX of a block with itself is LPS of the zero block (R101). -/
theorem lane_lpsx_self (x : Block) {k : Nat} (hk : k < 8) : lane (lpsx x x) k = 0xb383fc2eced4a574 := by
  rw [lpsx_eq_linL_permP_subS, xor512_eq_xor, BitVec.xor_self]
  exact lane_linL_permP_subS_zero hk

theorem lpsx_zero (x : Block) : lpsx x 0 = linL (permP (subS x)) := by
  rw [lpsx_eq_linL_permP_subS, xor512_eq_xor]
  exact congrArg _ (congrArg _ (congrArg _ BitVec.xor_zero))

/-- Where every byte of the exclusive or is 0xa5, every entry read is 0 (R101). -/
theorem lpsx_eq_zero_of_a5 {l r : Block} (h : ∀ n < 64, blockByte (xor512 l r) n = 0xa5) : lpsx l r = 0 := by
  rw [xor512_eq_xor] at h
  refine block_ext_lanes fun k hk => ?_
  rw [lane_lpsx l r k hk, lane_zero]
  refine xorOver_zero fun i hi => ?_
  rw [h (8 * i + k) (by omega), tableT_a5]

/-- Settles O14: the table form is the definition, and the corners are those of LPS of the exclusive or. -/
theorem lpsxByTable : Obligations.LpsxByTable := fun l r =>
  ⟨fun _ hj => lane_ofLanes _ _ hj, fun w j _ => laneByte_eq_laneByte_shiftRight w j, lpsx_eq_linL_permP_subS l r,
    lpsx_comm l r, fun _ hk => lane_lpsx_self l hk, lpsx_zero l, lpsx_eq_zero_of_a5⟩

/-- Settles O15: output lane k reads byte k of each input lane, and the two lanes j differ by two different entries of one
row of T. -/
theorem oneByteMovesOneLane : Obligations.OneByteMovesOneLane := by
  intro x y i hi j hj hsame hdiff k hk
  have hlane : ∀ z : Block, lane (lpsx z 0) k = xorOver (fun p => tableT p (blockByte z (8 * p + k))) 8 := fun z => by
    rw [lane_lpsx z 0 k hk]
    exact xorOver_congr fun p _ => by rw [blockByte_xor, blockByte_zero]; exact congrArg _ BitVec.xor_zero
  have hother : ∀ p < 8, p ≠ i ∨ k ≠ j → blockByte x (8 * p + k) = blockByte y (8 * p + k) := fun p hp hne =>
    hsame _ (by omega) (by omega)
  rw [hlane x, hlane y]
  by_cases hkj : k = j
  · subst hkj
    refine iff_of_true (fun heq => hdiff (tableT_injective hi ?_)) rfl
    rw [← BitVec.xor_eq_zero_iff, ← xorOver_xor, xorOver_single hi fun p hp hne => ?_, BitVec.xor_eq_zero_iff] at heq
    · exact heq
    · rw [hother p hp (.inl hne)]
      exact BitVec.xor_self
  · exact iff_of_false (fun hne => hne (xorOver_congr fun p hp => by rw [hother p hp (.inr hkj)])) hkj

/-! ### The is_zero operand of g -/

/-- Settles O17: g enters its rounds with the first key that LPSX gives of h and 0, in place of N. -/
theorem isZeroOverridesCounter : Obligations.IsZeroOverridesCounter := fun m N N' h => by
  simp only [compress_eq_permE, if_true, Bool.false_eq_true, if_false, and_self]

end Sys2Proof.Machine
end

section
/-! PROOFS of the statements on what the commands build from their operands: the increments of N (O4, spec/42_primitives.md
R103), the pad block (O28, O40, spec/44_commands.md R124) and the digest (O29, R127). -/

namespace Sys2Proof.Machine

/-! ### The increments of N -/

/-- Lane 0 of blk(v) is v, cut to a lane; the others are 0 (R103). -/
theorem lane_blk (v : Nat) {k : Nat} (hk : k < 8) : lane (blk v) k = if k = 0 then BitVec.ofNat 64 v else 0 := by
  rw [blk, lane_ofLanes _ _ hk]

/-- Adding blk(v), where v fits a lane, adds v modulo 2^512 (R102, R103). -/
theorem toNat_add512le_blk (N : Block) {v : Nat} (hv : v < 2 ^ 64) :
    (add512le N (blk v)).toNat = (N.toNat + v) % 2 ^ 512 := by
  rw [toNat_add512le, toNat_blk, Nat.mod_eq_of_lt hv]

/-- Settles O4: blk(512) and blk(8r) are the integers 512 and 8r, and add512_le adds integers. -/
theorem counterIncrements : Obligations.CounterIncrements := by
  refine ⟨fun v => ⟨lane_blk v (by decide), fun k hpos hk => ?_⟩, fun N => toNat_add512le_blk N (by decide),
    fun N r => toNat_add512le_blk N ?_, by decide +kernel, by decide +kernel⟩
  · rw [lane_blk v hk, if_neg hpos.ne']
  · have hr := r.isLt
    omega

/-! ### The pad block -/

/-- Blocks whose low n bytes agree have the same low 8n bits. -/
theorem toNat_mod_congr_of_bytes {x y : Block} {n : Nat} (h : ∀ j < n, blockByte x j = blockByte y j) :
    x.toNat % 2 ^ (8 * n) = y.toNat % 2 ^ (8 * n) := by
  induction n with
  | zero => rw [Nat.mul_zero, Nat.pow_zero, Nat.mod_one, Nat.mod_one]
  | succ n ih =>
    rw [mod_two_pow_mul_succ, mod_two_pow_mul_succ, ih fun j hj => h j (by omega), ← toNat_blockByte, ← toNat_blockByte,
      h n (by omega)]

/-- A block whose bytes from n upward are 0 is its low 8n bits. -/
theorem toNat_mod_of_high_bytes_zero {x : Block} {n : Nat} (h : ∀ j, n ≤ j → blockByte x j = 0) :
    x.toNat % 2 ^ (8 * n) = x.toNat := by
  have hlow : ∀ k, x.toNat % 2 ^ (8 * (n + k)) = x.toNat % 2 ^ (8 * n) := fun k => by
    induction k with
    | zero => rfl
    | succ k ih =>
      rw [← Nat.add_assoc, mod_two_pow_mul_succ, ih, ← toNat_blockByte, h (n + k) (Nat.le_add_right n k),
        BitVec.ofNat_eq_ofNat, BitVec.toNat_zero, Nat.zero_mul, Nat.add_zero]
  rw [← hlow 64, Nat.mod_eq_of_lt (BitVec.toNat_lt_twoPow_of_le (by omega))]

/-- The bytes above the 0x01 are 0 (R124). -/
theorem blockByte_mkpad_above (din : Block) (r : BitVec 6) {n : Nat} (hn : r.toNat < n) : blockByte (mkpad din r) n = 0 := by
  by_cases h64 : n < 64
  · rw [blockByte_mkpad din r h64, if_neg (by omega), if_neg (by omega)]
  · refine bitVec_ext fun i _ => ?_
    rw [getLsbD_blockByte, BitVec.getLsbD_of_ge _ _ (by omega)]
    simp

/-- The bytes below the 0x01 are those of the tail (R124). -/
theorem blockByte_mkpad_below (din : Block) (r : BitVec 6) {n : Nat} (hn : n < r.toNat) :
    blockByte (mkpad din r) n = blockByte din n := by
  rw [blockByte_mkpad din r (hn.trans r.isLt), if_pos hn]

/-- The pad block as an integer: the tail, and 1 at the byte after it (R124). -/
theorem toNat_mkpad (din : Block) (r : BitVec 6) :
    (mkpad din r).toNat = din.toNat % 2 ^ (8 * r.toNat) + 2 ^ (8 * r.toNat) := by
  rw [← toNat_mod_of_high_bytes_zero (n := r.toNat + 1) fun n hn => blockByte_mkpad_above din r hn, mod_two_pow_mul_succ,
    toNat_mod_congr_of_bytes fun n hn => blockByte_mkpad_below din r hn, ← toNat_blockByte, blockByte_mkpad_tailLength]
  exact congrArg _ (Nat.one_mul _)

/-- Settles O28: the three ranges of bytes, and the integer they make. -/
theorem padBlock : Obligations.PadBlock :=
  ⟨fun din r => ⟨fun _ hn => blockByte_mkpad_below din r hn, blockByte_mkpad_tailLength din r,
    fun _ hn _ => blockByte_mkpad_above din r hn, toNat_mkpad din r⟩, by decide +kernel⟩

/-- The pad block does not depend on DIN from byte r upward (R66, R124). -/
theorem mkpad_congr {r : BitVec 6} {d d' : Block} (h : ∀ n < r.toNat, blockByte d n = blockByte d' n) :
    mkpad d r = mkpad d' r := by
  refine block_ext_bytes fun n hn => ?_
  rw [blockByte_mkpad d r hn, blockByte_mkpad d' r hn]
  split
  next hlt => exact h n hlt
  next => rfl

theorem exec_finalize (r : BitVec 6) (din : Block) (s : State) :
    exec (.finalize r din) s = whenConstructed s (finalizeTail r din s) := rfl

/-- Settles O40: FINALIZE reads DIN only to make the pad block. -/
theorem finalizeIgnoresBytesPastTail : Obligations.FinalizeIgnoresBytesPastTail := by
  intro r d d' s h
  rw [exec_finalize, exec_finalize, finalizeTail, finalizeTail, mkpad_congr h]

/-! ### The digest -/

/-- The indices of the bytes of n lanes, lane by lane. -/
theorem flatMap_lane_bytes (f : Nat → Byte) (a n : Nat) :
    ((List.range' a n).flatMap fun k => (List.range 8).map fun p => f (8 * k + p)) =
      (List.range' (8 * a) (8 * n)).map f := by
  induction n generalizing a with
  | zero => rfl
  | succ n ih =>
    have hfirst : (List.range 8).map (fun p => f (8 * a + p)) = (List.range' (8 * a) 8).map f := by
      rw [List.range'_eq_map_range, List.map_map]
      rfl
    rw [List.range'_succ, List.flatMap_cons, ih, hfirst, ← List.map_append, Nat.mul_succ 8 a, List.range'_append_1,
      Nat.mul_succ 8 n, Nat.add_comm 8]

/-- The bytes of n lanes of a block, from lane a, are the block's own bytes (R40). -/
theorem flatMap_laneByte_lane (x : Block) (a n : Nat) :
    (((List.range' a n).map (lane x)).flatMap fun w => (List.range 8).map (laneByte w)) =
      (List.range' (8 * a) (8 * n)).map (blockByte x) := by
  rw [List.flatMap_map, ← flatMap_lane_bytes]
  exact List.flatMap_congr fun k _ => List.map_congr_left fun p hp => laneByte_lane x k p (List.mem_range.1 hp)

/-- A run of bytes in reverse, from the last. -/
theorem getElem?_reverse_map_range' (f : Nat → Byte) {a len n : Nat} (hn : n < len) :
    ((List.range' a len).map f).reverse[n]? = some (f (a + (len - 1 - n))) := by
  rw [List.getElem?_reverse (by simpa using hn), List.length_map, List.length_range', List.getElem?_map,
    List.getElem?_range' (by omega), Nat.one_mul, Option.map_some]

/-- Settles O29: both selections are runs of bytes, lane by lane, and the presentation is such a run in reverse. -/
theorem digestIsSelection : Obligations.DigestIsSelection := by
  intro dout
  refine ⟨by rw [digestLanes, List.range_eq_range'], rfl, fun m => ?_, fun m => ?_, fun m n hn => ?_⟩
  · cases m with
    | h256 => exact (flatMap_laneByte_lane dout 4 4).symm
    | h512 => exact (flatMap_laneByte_lane dout 0 8).symm
  · cases m <;> rw [standardPresentation, digestBytes, List.length_reverse, List.length_map, List.length_range']
  · cases m with
    | h256 =>
      have hlt : n < 32 := by simpa [standardPresentation, digestBytes] using hn
      refine (getElem?_reverse_map_range' _ hlt).trans ?_
      rw [show 32 + (32 - 1 - n) = 63 - n by omega]
    | h512 =>
      have hlt : n < 64 := by simpa [standardPresentation, digestBytes] using hn
      refine (getElem?_reverse_map_range' _ hlt).trans ?_
      rw [Nat.zero_add]

end Sys2Proof.Machine
end

section
/-! PROOFS of the statements on the pseudo-commands (spec/30_encoding.md R72 to R74, spec/44_commands.md R125, R126, R134,
R136): UPDATE (O53), the tail (O54), whole blocks (O50) and splitting a message (O52). All rest on how the blocks of a
concatenation follow from those of its parts, where the first part is whole blocks. -/

namespace Sys2Proof.Machine

/-! ### The blocks of a byte string -/

/-- Byte j of block n, where the string reaches so far (R42). -/
theorem blockByte_messageBlock {bytes : List Byte} {n j : Nat} (hj : j < 64) (hlen : 64 * n + j < bytes.length) :
    some (blockByte (messageBlock bytes n) j) = bytes[64 * n + j]? := by
  rw [messageBlock, blockByte_ofBytes _ _ hj, List.getD_eq_getElem _ _ hlen, List.getElem?_eq_getElem hlen]

/-- A whole block of the first part is that block of the concatenation (R42). -/
theorem messageBlock_append_left {a : List Byte} (b : List Byte) {n : Nat} (hn : n < a.length / 64) :
    messageBlock (a ++ b) n = messageBlock a n := by
  refine block_ext_bytes fun j hj => ?_
  rw [messageBlock, messageBlock, blockByte_ofBytes _ _ hj, blockByte_ofBytes _ _ hj, List.getD_append _ _ _ _ (by omega)]

/-- After a first part of whole blocks come the blocks of the second (R42). -/
theorem messageBlock_append_right {a : List Byte} (b : List Byte) (ha : a.length % 64 = 0) (n : Nat) :
    messageBlock (a ++ b) (a.length / 64 + n) = messageBlock b n := by
  have hoffset : ∀ j, 64 * (a.length / 64 + n) + j = a.length + (64 * n + j) := fun j => by omega
  rw [messageBlock, messageBlock]
  congr 1
  funext j
  rw [hoffset, List.getD_append_right _ _ _ _ (Nat.le_add_right _ _), Nat.add_sub_cancel_left]

/-- The whole blocks of a concatenation whose first part is whole blocks (R42). -/
theorem wholeBlocks_append {a : List Byte} (b : List Byte) (ha : a.length % 64 = 0) :
    wholeBlocks (a ++ b) = wholeBlocks a ++ wholeBlocks b := by
  have hcount : (a ++ b).length / 64 = a.length / 64 + b.length / 64 := by
    rw [List.length_append]
    omega
  rw [wholeBlocks, wholeBlocks, wholeBlocks, hcount, List.range_add, List.map_append, List.map_map]
  congr 1
  · exact List.map_congr_left fun n hn => messageBlock_append_left b (List.mem_range.1 hn)
  · exact List.map_congr_left fun n _ => messageBlock_append_right b ha n

/-- A string shorter than a block has no whole block (R42). -/
theorem wholeBlocks_of_length_lt {bytes : List Byte} (h : bytes.length < 64) : wholeBlocks bytes = [] := by
  rw [wholeBlocks, Nat.div_eq_of_lt h]
  rfl

/-- UPDATE's ABSORBs carry the whole blocks in order (R72). -/
theorem absorbsOf_eq_map_wholeBlocks (bytes : List Byte) : absorbsOf bytes = (wholeBlocks bytes).map .absorb := by
  rw [absorbsOf, wholeBlocks, List.map_map]
  rfl

theorem absorbsOf_append {a : List Byte} (b : List Byte) (ha : a.length % 64 = 0) :
    absorbsOf (a ++ b) = absorbsOf a ++ absorbsOf b := by
  simp only [absorbsOf_eq_map_wholeBlocks, wholeBlocks_append b ha, List.map_append]

@[simp] theorem length_absorbsOf (bytes : List Byte) : (absorbsOf bytes).length = bytes.length / 64 := by
  rw [absorbsOf, List.length_map, List.length_range]

/-! ### UPDATE -/

/-- UPDATE has an expansion exactly for whole blocks (R72). -/
theorem expandUpdate_of_whole {bytes : List Byte} (h : bytes.length % 64 = 0) :
    expandUpdate bytes = some (absorbsOf bytes) := by
  rw [expandUpdate, wellFormedUpdate, h]
  rfl

theorem expandUpdate_of_not_whole {bytes : List Byte} (h : bytes.length % 64 ≠ 0) : expandUpdate bytes = none := by
  rw [expandUpdate, wellFormedUpdate, beq_eq_false_iff_ne.2 h]
  rfl

theorem expandUpdate_eq_some {bytes : List Byte} {is : List Instr} (h : expandUpdate bytes = some is) :
    bytes.length % 64 = 0 ∧ is = absorbsOf bytes := by
  by_cases hlen : bytes.length % 64 = 0
  · rw [expandUpdate_of_whole hlen] at h
    exact ⟨hlen, (Option.some.inj h).symm⟩
  · rw [expandUpdate_of_not_whole hlen] at h
    cases h

/-- Settles O53: the expansion is absorbsOf, whose blocks are those of the string and follow a concatenation. -/
theorem updateExpandsToAbsorbs : Obligations.UpdateExpandsToAbsorbs := by
  refine ⟨fun bytes hlen => ⟨_, expandUpdate_of_whole hlen, length_absorbsOf bytes, fun n hn => ?_⟩,
    fun bytes hlen => expandUpdate_of_not_whole hlen, rfl, fun a b is js ha hb => ?_⟩
  · refine ⟨messageBlock bytes n, ?_, fun j hj => blockByte_messageBlock hj (by omega)⟩
    rw [absorbsOf, List.getElem?_map, List.getElem?_range hn, Option.map_some]
  · obtain ⟨hlen_a, rfl⟩ := expandUpdate_eq_some ha
    obtain ⟨hlen_b, rfl⟩ := expandUpdate_eq_some hb
    rw [expandUpdate_of_whole (by rw [List.length_append]; omega), absorbsOf_append b hlen_a]

/-! ### FINALIZE and ONE_SHOT -/

theorem expandFinalize_of_lt {tail : List Byte} (h : tail.length < 64) : expandFinalize tail = some (finalizeOf tail) := by
  rw [expandFinalize, wellFormedTail, decide_eq_true h]
  rfl

theorem expandFinalize_of_ge {tail : List Byte} (h : 64 ≤ tail.length) : expandFinalize tail = none := by
  rw [expandFinalize, wellFormedTail, decide_eq_false h.not_gt]
  rfl

/-- A tail shorter than a block has its length in six bits (R65). -/
theorem toNat_tailLength {n : Nat} (h : n < 64) : (BitVec.ofNat 6 n).toNat = n := by
  rw [BitVec.toNat_ofNat, Nat.mod_eq_of_lt h]

/-- The length of a string rounded down to whole blocks (R73). -/
theorem length_take_whole (bytes : List Byte) :
    (bytes.take (bytes.length - bytes.length % 64)).length = bytes.length - bytes.length % 64 := by
  rw [List.length_take]
  omega

/-- What is left of a string after its whole blocks is shorter than a block (R73). -/
theorem length_drop_whole (bytes : List Byte) :
    (bytes.drop (bytes.length - bytes.length % 64)).length = bytes.length % 64 := by
  rw [List.length_drop]
  omega

/-- Settles O54: a tail fits six bits exactly when it is shorter than a block, and what ONE_SHOT leaves over is. -/
theorem tailIsShorterThanBlock : Obligations.TailIsShorterThanBlock := by
  refine ⟨fun tail h => expandFinalize_of_ge h, fun tail h => ?_, fun bytes => ?_⟩
  · refine ⟨_, _, expandFinalize_of_lt h, toNat_tailLength h, fun n hn => ?_⟩
    rw [blockByte_messageBlock (by omega) (by omega), Nat.mul_zero, Nat.zero_add]
  · refine ⟨_, _, rfl, ?_, expandFinalize_of_lt ?_⟩
    · rw [length_absorbsOf, length_take_whole]
      omega
    · rw [length_drop_whole]
      exact Nat.mod_lt _ (by decide)

/-- Settles O50: with no tail, ONE_SHOT takes all bytes as whole blocks and drops them all before FINALIZE. -/
theorem emptyTailEndsWholeBlocks : Obligations.EmptyTailEndsWholeBlocks := by
  intro bytes hlen
  refine ⟨_, expandUpdate_of_whole hlen, ?_⟩
  rw [expandOneShot, hlen, Nat.sub_zero, List.take_length, List.drop_length]
  rfl

/-- ONE_SHOT of a concatenation whose first part is whole blocks (R136). -/
theorem expandOneShot_append {a : List Byte} (b : List Byte) (ha : a.length % 64 = 0) :
    expandOneShot (a ++ b) = absorbsOf a ++ expandOneShot b := by
  have hsplit : (a ++ b).length - (a ++ b).length % 64 = a.length + (b.length - b.length % 64) := by
    rw [List.length_append]
    omega
  rw [expandOneShot, expandOneShot, hsplit, List.take_length_add_append, List.drop_length_add_append, absorbsOf_append _ ha,
    List.append_assoc]

/-- Settles O52: the bytes are the first s and the rest, and the first s are whole blocks. -/
theorem oneShotIsIncremental : Obligations.OneShotIsIncremental := by
  intro bytes s hs hle
  have hlen : (bytes.take s).length % 64 = 0 := by
    rw [List.length_take, Nat.min_eq_left (by omega), hs]
  refine ⟨_, expandUpdate_of_whole hlen, ?_⟩
  rw [← expandOneShot_append _ hlen, List.take_append_drop]

/-- ONE_SHOT by the whole blocks of the string and the block its tail stands in (R73). -/
theorem expandOneShot_eq (bytes : List Byte) :
    expandOneShot bytes = (wholeBlocks bytes).map .absorb ++
      [.finalize (BitVec.ofNat 6 (bytes.length % 64)) (messageBlock bytes (bytes.length / 64))] := by
  have hlen := length_take_whole bytes
  have hwhole : (bytes.take (bytes.length - bytes.length % 64)).length % 64 = 0 := by omega
  have hcount : bytes.length / 64 = (bytes.take (bytes.length - bytes.length % 64)).length / 64 + 0 := by omega
  have htail : (bytes.drop (bytes.length - bytes.length % 64)).length < 64 := by
    rw [length_drop_whole]
    exact Nat.mod_lt _ (by decide)
  have hblocks := wholeBlocks_append (bytes.drop (bytes.length - bytes.length % 64)) hwhole
  have hblock := messageBlock_append_right (bytes.drop (bytes.length - bytes.length % 64)) hwhole 0
  rw [List.take_append_drop, wholeBlocks_of_length_lt htail, List.append_nil] at hblocks
  rw [List.take_append_drop, ← hcount] at hblock
  rw [expandOneShot, absorbsOf_eq_map_wholeBlocks, ← hblocks, finalizeOf, length_drop_whole, ← hblock]

end Sys2Proof.Machine
end

section
/-! PROOFS of the statements on several engines (spec/60_exceptions.md R149): every interleaving completes, in the same
state (O56). -/

namespace Sys2Proof.Machine

/-- An engine of a schedule that has a step takes it. -/
theorem stepEngine_of_step {es : List State} {k : Nat} {s t : State} (hk : es[k]? = some s) (hstep : step s = .next t) :
    stepEngine es k = .next (es.set k t) := by
  rw [stepEngine, hk]
  simp only [hstep]

theorem runSchedule_cons_of_stepEngine {es es' : List State} {k : Nat} (rest : List Nat)
    (h : stepEngine es k = .next es') : runSchedule (k :: rest) es = runSchedule rest es' := by
  rw [runSchedule, h]

/-- Every engine can take, alone, as many steps as the schedule gives it (R149). -/
def CanRunAlone (schedule : List Nat) (es : List State) : Prop :=
  ∀ k s, es[k]? = some s → ∃ t, runSteps (schedule.count k) s = .next t

/-- After the first step of a schedule the engines can take the steps that are left. -/
theorem CanRunAlone.set {k : Nat} {rest : List Nat} {es : List State} {s t : State} (h : CanRunAlone (k :: rest) es)
    (hk : es[k]? = some s) (hstep : step s = .next t) : CanRunAlone rest (es.set k t) := by
  intro j u hj
  by_cases hkj : k = j
  · subst hkj
    obtain ⟨hlt, -⟩ := List.getElem?_eq_some_iff.1 hk
    rw [List.getElem?_set_self hlt] at hj
    cases hj
    obtain ⟨v, hv⟩ := h k s hk
    rw [List.count_cons_self, runSteps_of_step _ hstep] at hv
    exact ⟨v, hv⟩
  · rw [List.getElem?_set_ne hkj] at hj
    obtain ⟨v, hv⟩ := h j u hj
    rw [List.count_cons_of_ne hkj] at hv
    exact ⟨v, hv⟩

/-- A schedule of existing engines that can each take their own steps completes (R149). -/
theorem runSchedule_completes {schedule : List Nat} {es : List State} (hexist : ∀ k ∈ schedule, k < es.length)
    (hcan : CanRunAlone schedule es) : ∃ es', runSchedule schedule es = .next es' := by
  induction schedule generalizing es with
  | nil => exact ⟨es, rfl⟩
  | cons k rest ih =>
    obtain ⟨hk, hrest⟩ := List.forall_mem_cons.1 hexist
    have hget := List.getElem?_eq_getElem hk
    obtain ⟨t, ht⟩ := hcan k _ hget
    rw [List.count_cons_self] at ht
    obtain ⟨u, hstep, -⟩ := runSteps_succ_next ht
    rw [runSchedule_cons_of_stepEngine rest (stepEngine_of_step hget hstep)]
    exact ih (by rwa [List.length_set]) (hcan.set hget hstep)

/-- Two schedules that complete and give each engine as many steps leave the same engines (R53). -/
theorem runSchedule_eq_of_count {schedule schedule' : List Nat} {es t t' : List State}
    (hcount : ∀ k, schedule.count k = schedule'.count k) (h : runSchedule schedule es = .next t)
    (h' : runSchedule schedule' es = .next t') : t = t' := by
  have hlen : t.length = t'.length := (runSchedule_length h).trans (runSchedule_length h').symm
  refine List.ext_getElem? fun k => ?_
  by_cases hk : k < es.length
  · obtain ⟨u, hu, hrun⟩ := runSchedule_getElem? h (List.getElem?_eq_getElem hk)
    obtain ⟨u', hu', hrun'⟩ := runSchedule_getElem? h' (List.getElem?_eq_getElem hk)
    rw [hcount k, hrun', Host.Outcome.next.injEq] at hrun
    rw [hu, hu', hrun]
  · have hge : t.length ≤ k := (runSchedule_length h).trans_le (Nat.le_of_not_lt hk)
    rw [List.getElem?_eq_none hge, List.getElem?_eq_none (hlen ▸ hge)]

/-- Settles O56: both schedules complete, and what they leave in an engine depends only on how often they name it. -/
theorem interleavingsComplete : Obligations.InterleavingsComplete := by
  intro schedule schedule' es hperm hexist hcan
  have hcan' : CanRunAlone schedule' es := fun k s hk => by
    rw [← hperm.count_eq k]
    exact hcan k s hk
  obtain ⟨t, ht⟩ := runSchedule_completes hexist hcan
  obtain ⟨t', ht'⟩ := runSchedule_completes (fun k hk => hexist k (hperm.mem_iff.2 hk)) hcan'
  rw [runSchedule_eq_of_count hperm.count_eq ht ht'] at ht
  exact ⟨t', ht, ht'⟩

end Sys2Proof.Machine
end

section
/-! PROOFS of the statements on command sequences: MODE between two NEWs (O37), the contract (O45, spec/70_reset_and_hazards.md
R164 to R168), RESET after NEW (O51), and the hash of a message (O46 to O49, spec/44_commands.md R129, R130, R134). -/

namespace Sys2Proof.Machine

/-! ### Between one NEW and the next -/

/-- Which commands are FINALIZE, as O37 counts them. -/
def isFinalize : Instr → Bool
  | .finalize _ _ => true
  | _ => false

/-- A command delivers one response if it is FINALIZE, and none otherwise (R24, R29). -/
theorem exec_response_count {i : Instr} {s t : State} (h : exec i s = .next t) :
    ∃ out, t.responses = s.responses ++ out ∧ out.length = if isFinalize i then 1 else 0 := by
  cases i with
  | finalize r din => exact ⟨_, exec_finalize_responses h, rfl⟩
  | new m => exact ⟨[], by rw [exec_responses h fun _ _ hi => Instr.noConfusion hi, List.append_nil], rfl⟩
  | reset => exact ⟨[], by rw [exec_responses h fun _ _ hi => Instr.noConfusion hi, List.append_nil], rfl⟩
  | absorb m => exact ⟨[], by rw [exec_responses h fun _ _ hi => Instr.noConfusion hi, List.append_nil], rfl⟩

/-- A run without NEW leaves MODE and delivers one response for each FINALIZE (R27). -/
theorem runSteps_without_new {is : List Instr} {rest : List HostInput} {s t : State} (hnew : ∀ i ∈ is, ∀ m, i ≠ .new m)
    (hp : s.pending = presented is ++ rest) (hrun : runSteps is.length s = .next t) :
    t.mode = s.mode ∧ t.pending = rest ∧
      ∃ out, t.responses = s.responses ++ out ∧ out.length = is.countP isFinalize := by
  induction is generalizing s with
  | nil =>
    cases hrun
    exact ⟨rfl, hp, [], (List.append_nil _).symm, rfl⟩
  | cons i is ih =>
    obtain ⟨hi, his⟩ := List.forall_mem_cons.1 hnew
    obtain ⟨u, hstep, hrun⟩ := runSteps_succ_next hrun
    rw [step_encode hp] at hstep
    obtain ⟨hmode, hpending, out, hout, hcount⟩ := ih his (exec_pending hstep) hrun
    obtain ⟨first, hfirst, hone⟩ := exec_response_count hstep
    refine ⟨hmode.trans (exec_mode (s := s.setPending (presented is ++ rest)) hstep hi), hpending, first ++ out, ?_, ?_⟩
    · rw [hout, hfirst, List.append_assoc, State.setPending_responses]
    · rw [List.length_append, hcount, hone, List.countP_cons, Nat.add_comm]

/-- Settles O37, by induction on the commands. -/
theorem modeImmutableBetweenNews : Obligations.ModeImmutableBetweenNews := by
  intro is rest s t hnew hrun
  obtain ⟨hmode, hpending, out, hout, hcount⟩ := runSteps_without_new hnew rfl hrun
  refine ⟨hmode, hpending, out, hout, hcount.trans (List.countP_congr fun i _ => ?_)⟩
  cases i <;> rfl

/-! ### The host's contract -/

/-- What the contract allows leads out of the phase before construction, and there it is a NEW (R164). -/
theorem HostPhase.after_cases {p q : HostPhase} {i : Instr} (h : p.after i = some q) :
    q ≠ .unconstructed ∧ (p = .unconstructed → ∃ m, i = .new m) := by
  match p, i, h with
  | _, .new m, rfl => exact ⟨nofun, fun _ => ⟨m, rfl⟩⟩
  | .inMessage, .reset, rfl => exact ⟨nofun, nofun⟩
  | .finished, .reset, rfl => exact ⟨nofun, nofun⟩
  | .inMessage, .absorb _, rfl => exact ⟨nofun, nofun⟩
  | .inMessage, .finalize _ _, rfl => exact ⟨nofun, nofun⟩

/-- A host that keeps the contract, at a phase that fits the engine, is never refused (R164 to R168). -/
theorem runSteps_of_keepsContract {is : List Instr} {rest : List HostInput} {p : HostPhase} {s : State}
    (hkeeps : keepsContract p is = true) (hphase : p ≠ .unconstructed → s.constructed = true)
    (hp : s.pending = presented is ++ rest) : ∃ t, runSteps is.length s = .next t ∧ t.pending = rest := by
  induction is generalizing p s with
  | nil => exact ⟨s, rfl, hp⟩
  | cons i is ih =>
    unfold keepsContract at hkeeps
    split at hkeeps
    next q hafter =>
      obtain ⟨hq, hnew⟩ := HostPhase.after_cases hafter
      have hexec : ∃ u, exec i (s.setPending (presented is ++ rest)) = .next u := by
        by_cases hun : p = .unconstructed
        · obtain ⟨m, rfl⟩ := hnew hun
          exact ⟨_, exec_new m _⟩
        · exact exec_completes i (s := s.setPending _) (hphase hun)
      obtain ⟨u, hu⟩ := hexec
      rw [List.length_cons, runSteps_of_step _ ((step_encode hp).trans hu)]
      exact ih hkeeps (fun _ => exec_constructed hu) (exec_pending hu)
    next => cases hkeeps

/-- Settles O45: before the first NEW nothing is asked of the engine. -/
theorem contractIsNeverRefused : Obligations.ContractIsNeverRefused := fun _ _ _ hkeeps =>
  runSteps_of_keepsContract hkeeps (fun h => absurd rfl h) rfl

/-! ### RESET after NEW -/

/-- The engine that NEW m constructs (R120). -/
def constructedBy (m : Mode) (s : State) : State := (initialise m (s.setMode m)).setConstructed

theorem exec_new_setPending (m : Mode) (s : State) (inputs : List HostInput) :
    exec (.new m) (s.setPending inputs) = .next ((constructedBy m s).setPending inputs) := rfl

/-- Settles O51: NEW leaves the engine as RESET does, so the second of two steps only takes its input. -/
theorem resetRoundTrip : Obligations.ResetRoundTrip := by
  intro m is rest s
  have hreset : step ((constructedBy m s).setPending (presented (.reset :: is) ++ rest)) =
      .next ((constructedBy m s).setPending (presented is ++ rest)) :=
    (step_encode rfl).trans (exec_reset_after_new m (s.setPending (presented is ++ rest)))
  exact ((runSteps_new m (.reset :: is) rest s).trans (runSteps_of_step _ hreset)).trans (runSteps_new m is rest s).symm

/-! ### Absorbing blocks -/

/-- The state after the ABSORBs of the blocks, one after another. -/
def absorbAll (s : State) (ms : List Block) : State := ms.foldl (fun s m => absorbBlock m s) s

@[simp] theorem absorbAll_cons (s : State) (m : Block) (ms : List Block) :
    absorbAll s (m :: ms) = absorbAll (absorbBlock m s) ms := rfl

@[simp] theorem absorbAll_mode (s : State) (ms : List Block) : (absorbAll s ms).mode = s.mode := by
  induction ms generalizing s with
  | nil => rfl
  | cons m ms ih => rw [absorbAll_cons, ih, absorbBlock_mode]

@[simp] theorem absorbAll_constructed (s : State) (ms : List Block) :
    (absorbAll s ms).constructed = s.constructed := by
  induction ms generalizing s with
  | nil => rfl
  | cons m ms ih => rw [absorbAll_cons, ih, absorbBlock_constructed]

@[simp] theorem absorbAll_responses (s : State) (ms : List Block) : (absorbAll s ms).responses = s.responses := by
  induction ms generalizing s with
  | nil => rfl
  | cons m ms ih => rw [absorbAll_cons, ih, absorbBlock_responses]

/-- blk(v), where v fits a lane, is the integer v (R103). -/
theorem blk_eq_ofNat {v : Nat} (hv : v < 2 ^ 64) : blk v = BitVec.ofNat 512 v :=
  BitVec.eq_of_toNat_eq (by rw [toNat_blk, BitVec.toNat_ofNat]; omega)

/-- Each block adds 512 to N (R129). -/
theorem absorbAll_N (s : State) (ms : List Block) :
    (absorbAll s ms).N = s.N + BitVec.ofNat 512 (512 * ms.length) := by
  induction ms generalizing s with
  | nil => exact (BitVec.add_zero s.N).symm
  | cons m ms ih =>
    rw [absorbAll_cons, ih, absorbBlock_N, add512le_eq_add, blk_eq_ofNat (by decide), BitVec.add_assoc,
      ← BitVec.ofNat_add, List.length_cons, Nat.mul_succ, Nat.add_comm 512]

/-- Σ gains the sum of the blocks (R129). -/
theorem absorbAll_sigma (s : State) (ms : List Block) :
    (absorbAll s ms).sigma = s.sigma + BitVec.ofNat 512 (sumOf ms) := by
  induction ms generalizing s with
  | nil => exact (BitVec.add_zero s.sigma).symm
  | cons m ms ih =>
    have hsum : sumOf (m :: ms) = m.toNat + sumOf ms := by rw [sumOf, List.map_cons, List.sum_cons, sumOf]
    rw [absorbAll_cons, ih, absorbBlock_sigma, add512le_eq_add, BitVec.add_assoc, hsum, BitVec.ofNat_add, BitVec.ofNat_toNat,
      BitVec.setWidth_eq]

/-- h is chained through the blocks, with the counter N holds before each (R130). -/
theorem absorbAll_h {s : State} {n : Nat} (hN : s.N = BitVec.ofNat 512 (512 * n)) (ms : List Block) :
    (absorbAll s ms).h = chainFrom n s.h ms := by
  induction ms generalizing s n with
  | nil => rfl
  | cons m ms ih =>
    have hnext : (absorbBlock m s).N = BitVec.ofNat 512 (512 * (n + 1)) := by
      rw [absorbBlock_N, add512le_eq_add, hN, blk_eq_ofNat (by decide), ← BitVec.ofNat_add, Nat.mul_succ]
    rw [absorbAll_cons, ih hnext, absorbBlock_h, hN, chainFrom]

/-! ### The hash of a message -/

section
variable {s s0 : State} {start : Instr}

/-- The ABSORBs of a list of blocks, presented to a constructed engine, are executed and the run goes on. -/
theorem runSteps_absorbs (hs : s.constructed = true) (ms : List Block) (inputs : List HostInput) (k : Nat) :
    runSteps (ms.length + k) (s.setPending (presented (ms.map .absorb) ++ inputs)) =
      runSteps k ((absorbAll s ms).setPending inputs) := by
  induction ms generalizing s with
  | nil => rw [List.length_nil, Nat.zero_add]; rfl
  | cons m ms ih =>
    have hexec : exec (.absorb m) (s.setPending (presented (ms.map .absorb) ++ inputs)) =
        .next ((absorbBlock m s).setPending (presented (ms.map .absorb) ++ inputs)) :=
      exec_absorb_next.2 ⟨hs, rfl⟩
    rw [List.length_cons, Nat.add_right_comm, absorbAll_cons, ← ih (s := absorbBlock m s) hs]
    exact runSteps_of_step _ ((step_encode rfl).trans hexec)

/-- A command that leaves a constructed engine, and then the ABSORBs of a list of blocks. -/
theorem runSteps_start_absorbs (hs0 : s0.constructed = true)
    (hexec : ∀ inputs, exec start (s.setPending inputs) = .next (s0.setPending inputs)) (ms : List Block)
    (inputs : List HostInput) (k : Nat) :
    runSteps (ms.length + k + 1) (s.setPending (presented (start :: ms.map .absorb) ++ inputs)) =
      runSteps k ((absorbAll s0 ms).setPending inputs) := by
  rw [← runSteps_absorbs hs0]
  exact runSteps_of_step _ ((step_encode rfl).trans (hexec _))

/-- BitVec.toNat_ofNat with the power on ℕ that the statements write: the width is a variable here, so that no proof has
to compare the two powers at 2^512. -/
theorem toNat_ofNat_eq_mod (n w : Nat) : (BitVec.ofNat w n).toNat = n % 2 ^ w := BitVec.toNat_ofNat n w

/-- Where the engine starts a message with N = 0, N is the number of bits in the blocks (R129). -/
theorem toNat_absorbAll_N (hN : s.N = 0) (ms : List Block) : (absorbAll s ms).N.toNat = 512 * ms.length % 2 ^ 512 := by
  rw [absorbAll_N, hN, BitVec.ofNat_eq_ofNat, BitVec.zero_add, toNat_ofNat_eq_mod]

/-- Where the engine starts a message with Σ = 0, Σ is the sum of the blocks (R129). -/
theorem toNat_absorbAll_sigma (hsigma : s.sigma = 0) (ms : List Block) :
    (absorbAll s ms).sigma.toNat = sumOf ms % 2 ^ 512 := by
  rw [absorbAll_sigma, hsigma, BitVec.ofNat_eq_ofNat, BitVec.zero_add, toNat_ofNat_eq_mod]

/-- A command that starts a message leaves a constructed engine with N and Σ at 0 (R120, R121). -/
theorem exec_start (h : (∃ m, start = .new m) ∨ (start = .reset ∧ s.constructed = true)) :
    ∃ s0 : State, s0.constructed = true ∧ s0.N = 0 ∧ s0.sigma = 0 ∧
      ∀ inputs, exec start (s.setPending inputs) = .next (s0.setPending inputs) := by
  obtain ⟨m, rfl⟩ | ⟨rfl, hs⟩ := h
  · exact ⟨constructedBy m s, rfl, rfl, rfl, exec_new_setPending m s⟩
  · exact ⟨initialise s.mode s, hs, rfl, rfl, fun inputs => exec_reset_next.2 ⟨hs, rfl⟩⟩

end

/-- Settles O46: the run leaves what the ABSORBs make of an engine with N and Σ at 0. -/
theorem lengthAndSumWhileAbsorbing : Obligations.LengthAndSumWhileAbsorbing := by
  intro ms rest s start hstart
  obtain ⟨s0, hs0, hN, hsigma, hexec⟩ := exec_start hstart
  exact ⟨_, runSteps_start_absorbs hs0 hexec ms rest 0, rfl, toNat_absorbAll_N hN ms, toNat_absorbAll_sigma hsigma ms⟩

/-- NEW m and the ABSORBs of a list of blocks complete from any state. -/
theorem runSteps_new_absorbs (m : Mode) (ms : List Block) (rest : List HostInput) (s : State) :
    runSteps (ms.length + 1) (s.setPending (presented (.new m :: ms.map .absorb) ++ rest)) =
      .next ((absorbAll (constructedBy m s) ms).setPending rest) :=
  runSteps_start_absorbs rfl (exec_new_setPending m s) ms rest 0

/-- Settles O47: NEW m leaves iv m in h and 0 in N, from which the ABSORBs chain. -/
theorem chainingValueAfterBlocks : Obligations.ChainingValueAfterBlocks := fun m ms rest s =>
  ⟨_, runSteps_new_absorbs m ms rest s, absorbAll_mode _ ms, absorbAll_h (s := constructedBy m s) rfl ms,
    absorbAll_responses _ ms⟩

/-- The sum of blocks does not depend on their order. -/
theorem sumOf_perm {ms ms' : List Block} (h : ms.Perm ms') : sumOf ms = sumOf ms' := (h.map _).sum_eq

/-- Settles O49: Σ is a sum, and N counts the blocks. -/
theorem sumIgnoresBlockOrder : Obligations.SumIgnoresBlockOrder := by
  intro m ms ms' rest s h
  refine ⟨_, _, runSteps_new_absorbs m ms rest s, runSteps_new_absorbs m ms' rest s, ?_, ?_⟩
  · rw [State.setPending_sigma, State.setPending_sigma, absorbAll_sigma, absorbAll_sigma, sumOf_perm h]
  · rw [State.setPending_N, State.setPending_N, absorbAll_N, absorbAll_N, h.length_eq]

/-- The engine after NEW m and the ABSORBs of a message's whole blocks, when its FINALIZE comes. -/
def beforeFinalize (m : Mode) (bytes : List Byte) (s : State) (rest : List HostInput) : State :=
  (absorbAll (constructedBy m s) (wholeBlocks bytes)).setPending rest

section
variable (m : Mode) (bytes : List Byte) (s : State) (rest : List HostInput)

theorem beforeFinalize_N :
    (beforeFinalize m bytes s rest).N = BitVec.ofNat 512 (512 * (wholeBlocks bytes).length) :=
  (absorbAll_N (constructedBy m s) _).trans (BitVec.zero_add _)

theorem beforeFinalize_sigma :
    (beforeFinalize m bytes s rest).sigma = BitVec.ofNat 512 (sumOf (wholeBlocks bytes)) :=
  (absorbAll_sigma (constructedBy m s) _).trans (BitVec.zero_add _)

theorem beforeFinalize_h : (beforeFinalize m bytes s rest).h = chainFrom 0 (iv m) (wholeBlocks bytes) :=
  absorbAll_h (s := constructedBy m s) rfl _

theorem beforeFinalize_constructed : (beforeFinalize m bytes s rest).constructed = true :=
  absorbAll_constructed (constructedBy m s) _

theorem beforeFinalize_mode : (beforeFinalize m bytes s rest).mode = m := absorbAll_mode (constructedBy m s) _

theorem beforeFinalize_responses : (beforeFinalize m bytes s rest).responses = s.responses :=
  absorbAll_responses (constructedBy m s) _

/-- The state after the FINALIZE that ends the message (R126). -/
def afterOneShot : State :=
  finalizeTail (BitVec.ofNat 6 (bytes.length % 64)) (messageBlock bytes (bytes.length / 64)) (beforeFinalize m bytes s rest)

/-- NEW m and ONE_SHOT of a byte string complete from any state. -/
theorem runSteps_new_oneShot :
    runSteps ((expandOneShot bytes).length + 1) (s.setPending (presented (.new m :: expandOneShot bytes) ++ rest)) =
      .next (afterOneShot m bytes s rest) := by
  have habsorbs := runSteps_start_absorbs (s0 := constructedBy m s) rfl (exec_new_setPending m s) (wholeBlocks bytes)
    (presented [.finalize (BitVec.ofNat 6 (bytes.length % 64)) (messageBlock bytes (bytes.length / 64))] ++ rest) 1
  have hfinalize := exec_finalize_next.2 ⟨beforeFinalize_constructed m bytes s rest, Eq.refl (afterOneShot m bytes s rest)⟩
  have hinputs : presented (.new m :: expandOneShot bytes) ++ rest =
      presented (.new m :: (wholeBlocks bytes).map .absorb) ++
        (presented [.finalize (BitVec.ofNat 6 (bytes.length % 64)) (messageBlock bytes (bytes.length / 64))] ++ rest) := by
    rw [expandOneShot_eq, ← List.append_assoc]
    simp only [presented, ← List.map_append, List.cons_append]
  have hlength : (expandOneShot bytes).length = (wholeBlocks bytes).length + 1 := by
    rw [expandOneShot_eq, List.length_append, List.length_map, List.length_singleton]
  rw [hinputs, hlength]
  exact habsorbs.trans (runSteps_of_step 0 ((step_encode rfl).trans hfinalize))

/-- FINALIZE completes the count of bits (R129). -/
theorem afterOneShot_N : (afterOneShot m bytes s rest).N = BitVec.ofNat 512 (8 * bytes.length) := by
  have hbits : 512 * (wholeBlocks bytes).length + 8 * (bytes.length % 64) = 8 * bytes.length := by
    rw [wholeBlocks, List.length_map, List.length_range]
    omega
  have hlt : bytes.length % 64 < 64 := Nat.mod_lt _ (by decide)
  rw [afterOneShot, finalizeTail_N, beforeFinalize_N, toNat_tailLength hlt, add512le_eq_add, blk_eq_ofNat (by omega),
    ← BitVec.ofNat_add, hbits]

/-- FINALIZE completes the sum with the pad block (R129). -/
theorem afterOneShot_sigma :
    (afterOneShot m bytes s rest).sigma = BitVec.ofNat 512 (sumOf (wholeBlocks bytes) + (padOf bytes).toNat) := by
  rw [afterOneShot, finalizeTail_sigma, beforeFinalize_sigma, add512le_eq_add, BitVec.ofNat_add, BitVec.ofNat_toNat,
    BitVec.setWidth_eq, padOf]

/-- FINALIZE leaves the Streebog block of the message in h (R129, R130). -/
theorem afterOneShot_h : (afterOneShot m bytes s rest).h = streebogBlock m bytes := by
  have hN := afterOneShot_N m bytes s rest
  have hsigma := afterOneShot_sigma m bytes s rest
  rw [afterOneShot, finalizeTail_N] at hN
  rw [afterOneShot, finalizeTail_sigma] at hsigma
  rw [afterOneShot, finalizeTail_h, hN, hsigma, beforeFinalize_N, beforeFinalize_h]
  simp only [streebogBlock, padOf]

end

/-- Settles O48: the run ends in the state after the last FINALIZE, whose h is the Streebog block that it delivers. -/
theorem oneShotDeliversStreebog : Obligations.OneShotDeliversStreebog := by
  intro m bytes rest s
  have hmode : (afterOneShot m bytes s rest).mode = m := beforeFinalize_mode m bytes s rest
  have hh := afterOneShot_h m bytes s rest
  refine ⟨_, runSteps_new_oneShot m bytes s rest, rfl, hmode, hh, ?_, ?_, ?_⟩
  · rw [← hh, afterOneShot, finalizeTail_responses, beforeFinalize_responses, beforeFinalize_mode]
  · rw [afterOneShot_N, toNat_ofNat_eq_mod]
  · rw [afterOneShot_sigma, toNat_ofNat_eq_mod]

end Sys2Proof.Machine
end
